-- ==== Sys2Proof/Word.lean ====
section
/-! DEFINITION. The value types of the CHIP-8 core (spec/00_scope.md section 5, "Widths"): u8, u12, u16, and the two
4-bit numberings (registers and keys). Every value is unsigned. -/

namespace Sys2Proof

/-- u8: a V register, a timer, a byte of memory, an immediate `nn`. -/
abbrev Byte := BitVec 8

/-- u16: an instruction word, I, pc, a return address. -/
abbrev Word := BitVec 16

/-- u12: the address field `nnn` of an instruction word. -/
abbrev Addr := BitVec 12

/-- The number of a general register V0..VF (R10, R61). -/
abbrev Reg := Fin 16

/-- A key code 0..15 (R18). -/
abbrev Key := Fin 16

/-- The row count `n` of DRW, 0..15 (R61). -/
abbrev Count := Fin 16

/-- The number of VF, the flag register (R11). -/
abbrev vF : Reg := 15

end Sys2Proof
end

