-- ==== Sys2Proof/Config.lean ====
section
/-! DEFINITION. The parameters of the hardware (R5): its sizes, and the one free value, the injected source of random
bytes P_RNG. The font table FONT_BYTES is `Sys2Proof.Config.fontBytes` in Machine/Font.lean. -/

namespace Sys2Proof.Config

/-- MEM_SIZE: bytes of memory. -/
@[simp] abbrev memSize : Nat := 4096
/-- ADDR_MAX: the highest valid memory address. -/
@[simp] abbrev addrMax : Nat := 0xFFF
/-- FONT_BASE: the first byte of the font set. -/
@[simp] abbrev fontBase : Nat := 0x000
/-- FONT_GLYPHS: glyphs in the font set. -/
@[simp] abbrev fontGlyphs : Nat := 16
/-- GLYPH_BYTES: bytes (rows) of a glyph. -/
@[simp] abbrev glyphBytes : Nat := 5
/-- FONT_END: the last byte of the font set. -/
@[simp] abbrev fontEnd : Nat := 0x04F
/-- PROG_BASE: the load address of the program and the reset value of pc. -/
@[simp] abbrev progBase : Nat := 0x200
/-- PROG_MAX: the largest program, in bytes. -/
@[simp] abbrev progMax : Nat := 3584
/-- NREGS: general registers. -/
@[simp] abbrev nregs : Nat := 16
/-- REG_WIDTH: bits of a general register (`Byte`). -/
@[simp] abbrev regWidth : Nat := 8
/-- I_WIDTH: bits of the index register (`Word`). -/
@[simp] abbrev iWidth : Nat := 16
/-- PC_WIDTH: bits of the program counter (`Word`). -/
@[simp] abbrev pcWidth : Nat := 16
/-- STACK_ENTRY_WIDTH: bits of a return address (`Word`). -/
@[simp] abbrev stackEntryWidth : Nat := 16
/-- TIMER_WIDTH: bits of a timer (`Byte`). -/
@[simp] abbrev timerWidth : Nat := 8
/-- STACK_DEPTH: return addresses the call stack holds. -/
@[simp] abbrev stackDepth : Nat := 16
/-- FB_W: framebuffer columns. -/
@[simp] abbrev fbW : Nat := 64
/-- FB_H: framebuffer rows. -/
@[simp] abbrev fbH : Nat := 32
/-- NKEYS: keys. -/
@[simp] abbrev nkeys : Nat := 16
/-- INSTR_WIDTH: bits of an instruction word. -/
@[simp] abbrev instrWidth : Nat := 16
/-- N_VARIANTS: decoded instruction variants. -/
@[simp] abbrev nVariants : Nat := 35
/-- TICK_HZ: the rate at which the host must issue tick_timers; a duty of the host that no transition reads (R168). -/
@[simp] abbrev tickHz : Nat := 60

/-- P_RNG (R21, R167): the sequence of random bytes the caller injected at construction, draw number `k` at index `k`.
It has no body: a statement about it holds for EVERY sequence (notes/assumptions/2.md). -/
opaque randomSource : Nat → Byte

end Sys2Proof.Config
end

