-- ==== Sys2Proof/Machine/State.lean ====
section
/-! DEFINITION. The state of the core (spec/10_state.md), the reasons a step can stop, and the state after reset (R25).
Each field is typed so that the invariants of R27 hold by construction. -/

namespace Sys2Proof.Machine

/-- The executor state `exec` (R19, R171). -/
inductive ExecState where
  /-- The normal state. -/
  | running
  /-- `LD Vx,K` is waiting for a key press that it will write into `V[x]`. -/
  | awaitingKey (x : Reg)
  deriving DecidableEq, Repr

/-- The framebuffer, `FB[c][r]`: 64 columns of 32 one-bit pixels (R16). -/
abbrev Framebuffer := Vector (Vector Bool 32) 64

/-- The memory: the bytes that differ from the construction contents, addresses strictly rising. What an unlisted
address reads as is `Memory.initByte` in Machine/Memory.lean; the form is `Memory.wf` there (notes/assumptions/6.md). -/
abbrev Memory := List Host.Cell

structure State where
  /-- The general registers V0..VF; `v[15]` is VF, the flag (R10, R11). -/
  v : Vector Byte 16
  /-- The index register I (R12). -/
  i : Word
  /-- The program counter; while an instruction executes, its own address (R13). -/
  pc : Word
  /-- The call stack (R14). -/
  stack : Vector Word 16
  /-- The number of active frames, 0..16 (R14). -/
  sp : Fin 17
  /-- The delay timer DT (R15). -/
  dt : Byte
  /-- The sound timer ST (R15). -/
  st : Byte
  /-- The framebuffer FB (R16). -/
  fb : Framebuffer
  /-- The dirty flag (R17). -/
  dirty : Bool
  /-- The key latch: `keys[k]` says that key k is pressed (R18). -/
  keys : Vector Bool 16
  /-- The executor state `exec` (R19). -/
  execState : ExecState
  /-- The 4096 bytes of memory (R20). -/
  mem : Memory
  /-- The MODEL's own field, no state of the core (R21): how many bytes of `Config.randomSource` have been drawn
  (notes/assumptions/2.md). -/
  draws : Nat
  deriving DecidableEq, Repr

/-- The five faults of the core (R150). A fault is the result of the operation that raised it; it is not latched, and
the state after it is the state before it (R22, R85, R151). -/
inductive Fault where
  /-- Raised by a step whose word decodes to no instruction (R83) and by SYS (R91). Safe: the hardware reports it too. -/
  | unknownOpcode (raw : Word)
  /-- Raised by CALL with 16 frames active (R94). Safe: the hardware reports it too. -/
  | stackOverflow
  /-- Raised by RET with no frame active (R92). Safe: the hardware reports it too. -/
  | stackUnderflow
  /-- Raised by a fetch past address 4095 (R82) and by DRW, LD B, LD [I] and LD Vx,[I] whose range runs past it (R49).
  Safe: the spec reports it too (for the fetch, by its decision D8). -/
  | memoryOutOfBounds
  /-- Raised by load_program with more than 3584 bytes (R54), never by a step. Safe: the hardware reports it too. -/
  | programTooLarge
  deriving DecidableEq, Repr

/-- Why the model gives no meaning. No step of this model raises one. -/
inductive Refusal where
  /-- Raised by an arm of `exec` whose instruction has no meaning yet; no arm is left in that state. Safe. -/
  | notModelled (mnemonic : String)
  deriving DecidableEq, Repr

/-- The state after machine construction (R25, R180): pc at 0x200, exec Running, every register, timer, pixel, key and
stack entry 0, and memory as constructed (the font set, then zeros), so that no byte is listed. -/
def State.reset : State where
  v := Vector.replicate 16 0
  i := 0
  pc := BitVec.ofNat 16 Config.progBase
  stack := Vector.replicate 16 0
  sp := 0
  dt := 0
  st := 0
  fb := Vector.replicate 64 (Vector.replicate 32 false)
  dirty := false
  keys := Vector.replicate 16 false
  execState := .running
  mem := []
  draws := 0

end Sys2Proof.Machine
end

