-- ==== Sys2Proof/Machine/Memory.lean ====
section
/-! DEFINITION. The byte memory (spec/20_memory.md) as a list of cells in one canonical form: reading and writing one
byte, writing a run of bytes, and the form itself. No bound is checked here: the checks of R41, R42 and R49 are in
Machine/Ops.lean. -/

namespace Sys2Proof.Machine

/-- What an address reads as when nothing has written it: the construction contents, the font set at
FONT_BASE..FONT_END and 0 elsewhere (R25, R43, R180). -/
def Memory.initByte (a : Nat) : Byte :=
  if Config.fontBase ≤ a ∧ a ≤ Config.fontEnd then Config.fontBytes.getD (a - Config.fontBase) 0 else 0

/-- The byte at an address. -/
def Memory.read (m : Memory) (a : Nat) : Byte :=
  match m with
  | [] => Memory.initByte a
  | (b, v) :: m => if b = a then v else Memory.read m a

/-- The memory without the cell at `a`, which then reads as constructed. -/
def Memory.dropCell (m : Memory) (a : Nat) : Memory := m.filter fun c => c.1 != a

/-- The memory with a cell put in at its place by address. -/
def Memory.putCell (m : Memory) (a : Nat) (v : Byte) : Memory :=
  match m with
  | [] => [(a, v)]
  | c :: m => if a < c.1 then (a, v) :: c :: m else c :: Memory.putCell m a v

/-- The memory with the byte at `a` written. A byte written with what it reads as when unlisted is not listed. -/
def Memory.write (m : Memory) (a : Nat) (v : Byte) : Memory :=
  if v = Memory.initByte a then Memory.dropCell m a else Memory.putCell (Memory.dropCell m a) a v

/-- The memory with the bytes of a list written at ascending addresses from `a` (R47, R54). -/
def Memory.writeRun (m : Memory) (a : Nat) (bytes : List Byte) : Memory :=
  match bytes with
  | [] => m
  | b :: bs => Memory.writeRun (Memory.write m a b) (a + 1) bs

/-- The canonical form: every listed address exists, every listed byte differs from what the address reads as when
unlisted, and addresses strictly rise. -/
def Memory.wf (m : Memory) : Bool :=
  match m with
  | [] => true
  | c :: m => decide (c.1 < Config.memSize) && c.2 != Memory.initByte c.1 && m.all (fun d => c.1 < d.1) && Memory.wf m

end Sys2Proof.Machine
end

