-- ==== Sys2Proof/Machine/Ops.lean ====
section
/-! DEFINITION. The named operations over the state that the instructions are written in: one update per piece of state,
the checked memory accesses (R41, R42, R49), the call stack, the draw of a random byte, and how a fault is delivered. -/

namespace Sys2Proof.Machine

/-- What an instruction answers. -/
abbrev Result := Host.Outcome State Fault Refusal

/-! ### Updates of one piece of state -/

/-- `V[x]` (R10). -/
def State.getV (s : State) (x : Reg) : Byte := s.v[x]
/-- `V[x] <- b` (R10: no register is hardwired). -/
def State.setV (s : State) (x : Reg) (b : Byte) : State := { s with v := s.v.set x b }
/-- `I <- a` (R12). -/
def State.setI (s : State) (a : Word) : State := { s with i := a }
/-- `pc <- a` (R84). -/
def State.setPc (s : State) (a : Word) : State := { s with pc := a }
/-- `DT <- b` (R15). -/
def State.setDT (s : State) (b : Byte) : State := { s with dt := b }
/-- `ST <- b` (R15). -/
def State.setST (s : State) (b : Byte) : State := { s with st := b }
/-- FB replaced, with the dirty flag set as every CLS and DRW sets it (R17, R130). -/
def State.paint (s : State) (fb : Framebuffer) : State := { s with fb := fb, dirty := true }
/-- `dirty <- 0`, the host's acknowledgement (R17, R166). -/
def State.clearDirty (s : State) : State := { s with dirty := false }
/-- `keys[k] <- pressed` (R18). -/
def State.setKey (s : State) (k : Key) (pressed : Bool) : State := { s with keys := s.keys.set k pressed }
/-- `exec <- e` (R19). -/
def State.setExec (s : State) (e : ExecState) : State := { s with execState := e }
/-- Memory replaced (R20). -/
def State.setMem (s : State) (m : Memory) : State := { s with mem := m }

/-! ### The next pc (R84, R87: arithmetic modulo 2^16) -/

/-- Sequential: `pc <- pc + 2`. -/
def State.advance (s : State) : State := s.setPc (s.pc + 2)
/-- Skip: `pc <- pc + 4` when the condition holds, else `pc <- pc + 2` (R90). -/
def State.skipIf (s : State) (c : Bool) : State := s.setPc (if c then s.pc + 4 else s.pc + 2)

/-! ### Faults (R85, R150, R151) -/

/-- Taking an exception, as this hardware does it: the fault is the operation's result, nothing is vectored or saved, and
no write of the operation stands. There is no return from it (R152). -/
def raise (f : Fault) : Result := .fault f

/-- The outcome of an instruction body: the committed state, or the fault it raised. -/
def deliver (r : Except Fault State) : Result :=
  match r with
  | .ok s => .next s
  | .error f => raise f

/-- The numeric code of a fault (R150). -/
def Fault.code (f : Fault) : Nat :=
  match f with
  | .unknownOpcode _ => 1
  | .stackOverflow => 2
  | .stackUnderflow => 3
  | .memoryOutOfBounds => 4
  | .programTooLarge => 5

/-! ### Checked memory accesses -/

/-- The address exists (R40: addresses never wrap). -/
def inRange (a : Nat) : Bool := decide (a ≤ Config.addrMax)

/-- The `len` bytes from `a` on all exist; a range of no bytes always does (R49). -/
def rangeOk (a len : Nat) : Bool := len == 0 || inRange (a + len - 1)

/-- `MemRead(a, 1)` (R41). -/
def memRead (s : State) (a : Nat) : Except Fault Byte :=
  if inRange a then .ok (Memory.read s.mem a) else .error .memoryOutOfBounds

/-- `MemWrite(a, 1, v)` (R42). -/
def memWrite (s : State) (a : Nat) (v : Byte) : Except Fault State :=
  if inRange a then .ok (s.setMem (Memory.write s.mem a v)) else .error .memoryOutOfBounds

/-- `len` reads at ascending addresses (R47). -/
def readBytes (s : State) (a len : Nat) : Except Fault (List Byte) :=
  match len with
  | 0 => .ok []
  | len + 1 => do
    let b ← memRead s a
    let bs ← readBytes s (a + 1) len
    .ok (b :: bs)

/-- Writes at ascending addresses (R47). -/
def writeBytes (s : State) (a : Nat) (bytes : List Byte) : Except Fault State :=
  match bytes with
  | [] => .ok s
  | b :: bs => do
    let s ← memWrite s a b
    writeBytes s (a + 1) bs

/-- Reads of a range, the whole range checked before the first of them (R49). -/
def readRange (s : State) (a len : Nat) : Except Fault (List Byte) :=
  if rangeOk a len then readBytes s a len else .error .memoryOutOfBounds

/-- Writes of a range, the whole range checked before the first of them (R49). -/
def writeRange (s : State) (a : Nat) (bytes : List Byte) : Except Fault State :=
  if rangeOk a bytes.length then writeBytes s a bytes else .error .memoryOutOfBounds

/-! ### The call stack (R14) -/

/-- Push a return address; with 16 frames active, StackOverflow (R94). -/
def pushFrame (s : State) (a : Word) : Except Fault State :=
  if h : s.sp.val < Config.stackDepth then
    .ok { s with stack := s.stack.set s.sp.val a h, sp := ⟨s.sp.val + 1, Nat.succ_lt_succ h⟩ }
  else .error .stackOverflow

/-- Pop the latest return address; with no frame active, StackUnderflow (R92). The popped entry keeps its value (R14). -/
def popFrame (s : State) : Except Fault (Word × State) :=
  if h : s.sp.val = 0 then .error .stackUnderflow
  else .ok (s.stack[s.sp.val - 1]'(by omega), { s with sp := ⟨s.sp.val - 1, by omega⟩ })

/-! ### The randomness source (R167) -/

/-- `RandomByte()`: the next byte of P_RNG, of which exactly one is taken. -/
def randomByte (s : State) : Byte × State := (Config.randomSource s.draws, { s with draws := s.draws + 1 })

end Sys2Proof.Machine
end

