-- ==== Sys2Proof/Machine/Flags.lean ====
section
/-! DEFINITION. The flag computations (R11, R100): every flag VF can receive, and the order of the two writes. -/

namespace Sys2Proof.Machine

/-- `V[0xF] <- (if c then 1 else 0)` (R11). -/
def State.setFlag (s : State) (c : Bool) : State := s.setV vF (if c then 1 else 0)

/-- The result to `V[x]` first and the flag to VF second, so that for x = F the flag stays (R100, rule 3). -/
def State.setResultAndFlag (s : State) (x : Reg) (result : Byte) (flag : Bool) : State :=
  (s.setV x result).setFlag flag

/-- Carry of an 8-bit sum: the 9-bit sum is 256 or more (R107). -/
def carry8 (a b : Byte) : Bool := decide (a.toNat + b.toNat ≥ 256)

/-- No borrow of `a - b`: `a >= b`, unsigned (R108, R110). -/
def noBorrow (a b : Byte) : Bool := decide (a.toNat ≥ b.toNat)

/-- The bit a right shift by one shifts out: bit 0 of the value before the shift (R109). -/
def lowBit (a : Byte) : Bool := a.getLsbD 0

/-- The bit a left shift by one shifts out: bit 7 of the value before the shift (R111). -/
def highBit (a : Byte) : Bool := a.getLsbD 7

/-- Carry of `I + V[x]` out of bit 15 (R122). -/
def carry16 (i : Word) (a : Byte) : Bool := decide (i.toNat + a.toNat ≥ 65536)

end Sys2Proof.Machine
end

