-- ==== Sys2Proof/Machine/Operands.lean ====
section
/-! DEFINITION. The operand forms (R61): a register, an 8-bit immediate, a 12-bit address, a row count, and the implicit
operands that are more than one register (the key numbered by a register, the font glyph, the decimal digits). -/

namespace Sys2Proof.Machine

/-- The address operand: `zext_16(nnn)` (R61). -/
def addrOperand (nnn : Addr) : Word := nnn.setWidth 16

/-- A register's value as an address offset: `zext_16(V[x])`. -/
def offsetOperand (s : State) (x : Reg) : Word := (s.getV x).setWidth 16

/-- The memory address in I, a natural number (R40, R49). -/
def indexAddress (s : State) : Nat := s.i.toNat

/-- The key numbered by `V[x]` is pressed; a code above 15 names no key and reads as not pressed (R144). -/
def keyPressed (s : State) (x : Reg) : Bool :=
  if h : (s.getV x).toNat < 16 then s.keys[(s.getV x).toNat] else false

/-- The address of the font glyph of a digit, `V[x] * 5`, not masked (R123). -/
def glyphAddress (b : Byte) : Word := b.setWidth 16 * BitVec.ofNat 16 Config.glyphBytes

/-- The hundreds, tens and ones of a byte (R124). -/
def decimalDigits (b : Byte) : List Byte :=
  [BitVec.ofNat 8 (b.toNat / 100), BitVec.ofNat 8 (b.toNat / 10 % 10), BitVec.ofNat 8 (b.toNat % 10)]

/-- The values of V0..Vx inclusive (R120). -/
def registersTo (s : State) (x : Reg) : List Byte := s.v.toList.take (x.val + 1)

/-- V0, V1, ... written with the bytes of a list, from register `k` on (R126). -/
def loadRegisters (s : State) (k : Nat) (bytes : List Byte) : State :=
  match bytes with
  | [] => s
  | b :: bs => loadRegisters (if h : k < 16 then s.setV ⟨k, h⟩ b else s) (k + 1) bs

end Sys2Proof.Machine
end

