-- ==== Sys2Proof/Machine/Alu.lean ====
section
/-! DEFINITION. Register loads, arithmetic, logic, shifts and RND (spec/42_alu.md). None can fault; each ends with
`pc <- pc + 2`; operands are read before any write, and a flag is written last (R100). -/

namespace Sys2Proof.Machine

/-- `LD Vx,nn` (R101). -/
def execLdImm (x : Reg) (nn : Byte) (s : State) : Result := .next (s.setV x nn).advance

/-- `ADD Vx,nn` (R102): modulo 256, no flag. -/
def execAddImm (x : Reg) (nn : Byte) (s : State) : Result := .next (s.setV x (s.getV x + nn)).advance

/-- `LD Vx,Vy` (R103). -/
def execLdReg (x y : Reg) (s : State) : Result := .next (s.setV x (s.getV y)).advance

/-- `OR Vx,Vy` (R104): no flag. -/
def execOr (x y : Reg) (s : State) : Result := .next (s.setV x (s.getV x ||| s.getV y)).advance

/-- `AND Vx,Vy` (R105): no flag. -/
def execAnd (x y : Reg) (s : State) : Result := .next (s.setV x (s.getV x &&& s.getV y)).advance

/-- `XOR Vx,Vy` (R106): no flag. -/
def execXor (x y : Reg) (s : State) : Result := .next (s.setV x (s.getV x ^^^ s.getV y)).advance

/-- `ADD Vx,Vy` (R107): VF is the carry. -/
def execAddReg (x y : Reg) (s : State) : Result :=
  let a := s.getV x
  let b := s.getV y
  .next (s.setResultAndFlag x (a + b) (carry8 a b)).advance

/-- `SUB Vx,Vy` (R108): VF is 1 when no borrow occurs. -/
def execSub (x y : Reg) (s : State) : Result :=
  let a := s.getV x
  let b := s.getV y
  .next (s.setResultAndFlag x (a - b) (noBorrow a b)).advance

/-- `SHR Vx` (R109): VF is the bit shifted out; y is ignored. -/
def execShr (x _y : Reg) (s : State) : Result :=
  let a := s.getV x
  .next (s.setResultAndFlag x (a >>> 1) (lowBit a)).advance

/-- `SUBN Vx,Vy` (R110): Vy minus Vx; VF is 1 when no borrow occurs. -/
def execSubn (x y : Reg) (s : State) : Result :=
  let a := s.getV x
  let b := s.getV y
  .next (s.setResultAndFlag x (b - a) (noBorrow b a)).advance

/-- `SHL Vx` (R111): VF is the bit shifted out; y is ignored. -/
def execShl (x _y : Reg) (s : State) : Result :=
  let a := s.getV x
  .next (s.setResultAndFlag x (a <<< 1) (highBit a)).advance

/-- `RND Vx,nn` (R112): one byte of P_RNG, masked; the byte is drawn also when nn = 0. -/
def execRnd (x : Reg) (nn : Byte) (s : State) : Result :=
  let (r, s) := randomByte s
  .next (s.setV x (nn &&& r)).advance

end Sys2Proof.Machine
end

