-- ==== Sys2Proof/Syntax.lean ====
section
/-! DEFINITION. The instructions: one constructor per row of the opcode map (R63, spec/opcode_table.json), with the
operand fields the row's word holds (R60, R61). SHR and SHL carry their ignored field y, as `Decode` of R64 does. -/

namespace Sys2Proof

inductive Instr where
  /-- `SYS nnn` (0nnn, other than 00E0 and 00EE; R91). -/
  | sys (nnn : Addr)
  /-- `CLS` (00E0; R131). -/
  | cls
  /-- `RET` (00EE; R92). -/
  | ret
  /-- `JP nnn` (1nnn; R93). -/
  | jp (nnn : Addr)
  /-- `CALL nnn` (2nnn; R94). -/
  | call (nnn : Addr)
  /-- `SE Vx,nn` (3xnn; R95). -/
  | seImm (x : Reg) (nn : Byte)
  /-- `SNE Vx,nn` (4xnn; R96). -/
  | sneImm (x : Reg) (nn : Byte)
  /-- `SE Vx,Vy` (5xy0; R97). -/
  | seReg (x y : Reg)
  /-- `LD Vx,nn` (6xnn; R101). -/
  | ldImm (x : Reg) (nn : Byte)
  /-- `ADD Vx,nn` (7xnn; R102). -/
  | addImm (x : Reg) (nn : Byte)
  /-- `LD Vx,Vy` (8xy0; R103). -/
  | ldReg (x y : Reg)
  /-- `OR Vx,Vy` (8xy1; R104). -/
  | orReg (x y : Reg)
  /-- `AND Vx,Vy` (8xy2; R105). -/
  | andReg (x y : Reg)
  /-- `XOR Vx,Vy` (8xy3; R106). -/
  | xorReg (x y : Reg)
  /-- `ADD Vx,Vy` (8xy4; R107). -/
  | addReg (x y : Reg)
  /-- `SUB Vx,Vy` (8xy5; R108). -/
  | subReg (x y : Reg)
  /-- `SHR Vx` (8xy6, y ignored; R109, R66). -/
  | shr (x y : Reg)
  /-- `SUBN Vx,Vy` (8xy7; R110). -/
  | subnReg (x y : Reg)
  /-- `SHL Vx` (8xyE, y ignored; R111, R66). -/
  | shl (x y : Reg)
  /-- `SNE Vx,Vy` (9xy0; R98). -/
  | sneReg (x y : Reg)
  /-- `LD I,nnn` (Annn; R121). -/
  | ldI (nnn : Addr)
  /-- `JP V0,nnn` (Bnnn; R99). -/
  | jpV0 (nnn : Addr)
  /-- `RND Vx,nn` (Cxnn; R112). -/
  | rnd (x : Reg) (nn : Byte)
  /-- `DRW Vx,Vy,n` (Dxyn; R132). -/
  | drw (x y : Reg) (n : Count)
  /-- `SKP Vx` (Ex9E; R144). -/
  | skp (x : Reg)
  /-- `SKNP Vx` (ExA1; R145). -/
  | sknp (x : Reg)
  /-- `LD Vx,DT` (Fx07; R141). -/
  | ldFromDT (x : Reg)
  /-- `LD Vx,K` (Fx0A; R146). -/
  | ldKey (x : Reg)
  /-- `LD DT,Vx` (Fx15; R142). -/
  | ldDT (x : Reg)
  /-- `LD ST,Vx` (Fx18; R143). -/
  | ldST (x : Reg)
  /-- `ADD I,Vx` (Fx1E; R122). -/
  | addI (x : Reg)
  /-- `LD F,Vx` (Fx29; R123). -/
  | ldFont (x : Reg)
  /-- `LD B,Vx` (Fx33; R124). -/
  | ldBcd (x : Reg)
  /-- `LD [I],Vx` (Fx55; R125). -/
  | store (x : Reg)
  /-- `LD Vx,[I]` (Fx65; R126). -/
  | load (x : Reg)
  deriving DecidableEq, Repr

end Sys2Proof
end

