-- ==== Sys2Proof/WellFormed.lean ====
section
/-! DEFINITION. Which terms of `Instr` are instructions of the hardware. Every operand field has the width of its
type, so ONE check is left: the words 00E0 and 00EE are CLS and RET, never SYS (R63). -/

namespace Sys2Proof

/-- The check of the SYS row: `nnn` is neither 0E0 nor 0EE (R63: the exact matches take precedence over SYS). -/
abbrev sysFieldOk (nnn : Addr) : Prop := nnn ≠ 0x0E0#12 ∧ nnn ≠ 0x0EE#12

/-- The instruction is one that some word stands for. -/
def wellFormed (i : Instr) : Bool :=
  match i with
  | .sys nnn => decide (sysFieldOk nnn)
  | .cls | .ret | .jp _ | .call _ | .seImm _ _ | .sneImm _ _ | .seReg _ _ | .ldImm _ _ | .addImm _ _
  | .ldReg _ _ | .orReg _ _ | .andReg _ _ | .xorReg _ _ | .addReg _ _ | .subReg _ _ | .shr _ _ | .subnReg _ _
  | .shl _ _ | .sneReg _ _ | .ldI _ | .jpV0 _ | .rnd _ _ | .drw _ _ _ | .skp _ | .sknp _ | .ldFromDT _
  | .ldKey _ | .ldDT _ | .ldST _ | .addI _ | .ldFont _ | .ldBcd _ | .store _ | .load _ => true

/-- `wellFormed` as a decidable proposition. -/
abbrev WellFormed (i : Instr) : Prop := wellFormed i = true

end Sys2Proof
end

