-- ==== Sys2Proof/Decode.lean ====
section
/-! DEFINITION. The instruction encoding (spec/30_encoding.md): the fields of a word, the decoder of R64, the opcode map
of R63, the encoder, and the byte-level decoder that every fetch of two bytes goes through. -/

namespace Sys2Proof

/-! ### The fields of a word (R60) -/

/-- `n3 = op[15:12]`, the family selector. -/
def fieldN3 (op : Word) : BitVec 4 := op.extractLsb' 12 4
/-- `x = op[11:8]`. -/
def fieldX (op : Word) : BitVec 4 := op.extractLsb' 8 4
/-- `y = op[7:4]`. -/
def fieldY (op : Word) : BitVec 4 := op.extractLsb' 4 4
/-- `n = op[3:0]`. -/
def fieldN (op : Word) : BitVec 4 := op.extractLsb' 0 4
/-- `nn = op[7:0]`. -/
def fieldNN (op : Word) : Byte := op.extractLsb' 0 8
/-- `nnn = op[11:0]`. -/
def fieldNNN (op : Word) : Addr := op.extractLsb' 0 12

/-- A 4-bit field read as a register number or a row count (R61: unsigned, neither scaled nor extended by sign). -/
def nibbleNumber (f : BitVec 4) : Fin 16 := f.toFin

/-- A register number or a row count as the 4-bit field that holds it. -/
def nibbleField (k : Fin 16) : BitVec 4 := BitVec.ofFin k

/-! ### The decoder (R64) -/

/-- Why bytes are no instruction. -/
inductive DecodeError where
  /-- `Unknown`: the word matches no row of the opcode map (R65). -/
  | unknown (raw : Word)
  /-- Fewer than the two bytes of an instruction word (R68). -/
  | tooShort
  deriving DecidableEq, Repr

/-- Family 0: the exact words CLS and RET, else SYS. -/
def decode0 (op : Word) : Except DecodeError Instr :=
  if op = 0x00E0#16 then .ok .cls
  else if op = 0x00EE#16 then .ok .ret
  else .ok (.sys (fieldNNN op))

/-- Family 8: the low nibble selects the operation. -/
def decode8 (op : Word) : Except DecodeError Instr :=
  let x := nibbleNumber (fieldX op)
  let y := nibbleNumber (fieldY op)
  match (fieldN op).toNat with
  | 0x0 => .ok (.ldReg x y)
  | 0x1 => .ok (.orReg x y)
  | 0x2 => .ok (.andReg x y)
  | 0x3 => .ok (.xorReg x y)
  | 0x4 => .ok (.addReg x y)
  | 0x5 => .ok (.subReg x y)
  | 0x6 => .ok (.shr x y)
  | 0x7 => .ok (.subnReg x y)
  | 0xE => .ok (.shl x y)
  | _ => .error (.unknown op)

/-- Family E: the low byte selects the key test. -/
def decodeE (op : Word) : Except DecodeError Instr :=
  let x := nibbleNumber (fieldX op)
  match (fieldNN op).toNat with
  | 0x9E => .ok (.skp x)
  | 0xA1 => .ok (.sknp x)
  | _ => .error (.unknown op)

/-- Family F: the low byte selects the operation. -/
def decodeF (op : Word) : Except DecodeError Instr :=
  let x := nibbleNumber (fieldX op)
  match (fieldNN op).toNat with
  | 0x07 => .ok (.ldFromDT x)
  | 0x0A => .ok (.ldKey x)
  | 0x15 => .ok (.ldDT x)
  | 0x18 => .ok (.ldST x)
  | 0x1E => .ok (.addI x)
  | 0x29 => .ok (.ldFont x)
  | 0x33 => .ok (.ldBcd x)
  | 0x55 => .ok (.store x)
  | 0x65 => .ok (.load x)
  | _ => .error (.unknown op)

/-- `Decode(op)` of R64: total on every word, one instruction or a rejection by name. -/
def decode (op : Word) : Except DecodeError Instr :=
  let x := nibbleNumber (fieldX op)
  let y := nibbleNumber (fieldY op)
  let n := nibbleNumber (fieldN op)
  let nn := fieldNN op
  let nnn := fieldNNN op
  match (fieldN3 op).toNat with
  | 0x0 => decode0 op
  | 0x1 => .ok (.jp nnn)
  | 0x2 => .ok (.call nnn)
  | 0x3 => .ok (.seImm x nn)
  | 0x4 => .ok (.sneImm x nn)
  | 0x5 => if n = 0 then .ok (.seReg x y) else .error (.unknown op)
  | 0x6 => .ok (.ldImm x nn)
  | 0x7 => .ok (.addImm x nn)
  | 0x8 => decode8 op
  | 0x9 => if n = 0 then .ok (.sneReg x y) else .error (.unknown op)
  | 0xA => .ok (.ldI nnn)
  | 0xB => .ok (.jpV0 nnn)
  | 0xC => .ok (.rnd x nn)
  | 0xD => .ok (.drw x y n)
  | 0xE => decodeE op
  | _ => decodeF op

/-! ### The opcode map (R63) -/

/-- A row of the opcode map: a word belongs to it when `op & mask = value`. -/
structure OpcodeRow where
  mnemonic : String
  value : Word
  mask : Word
  deriving DecidableEq, Repr

/-- The row of the opcode map that a constructor stands for, under its mnemonic in spec/opcode_table.json. -/
def opcodeRow (i : Instr) : OpcodeRow :=
  match i with
  | .sys _ => ⟨"SYS_nnn", 0x0000, 0xF000⟩
  | .cls => ⟨"CLS", 0x00E0, 0xFFFF⟩
  | .ret => ⟨"RET", 0x00EE, 0xFFFF⟩
  | .jp _ => ⟨"JP_nnn", 0x1000, 0xF000⟩
  | .call _ => ⟨"CALL_nnn", 0x2000, 0xF000⟩
  | .seImm _ _ => ⟨"SE_Vx_nn", 0x3000, 0xF000⟩
  | .sneImm _ _ => ⟨"SNE_Vx_nn", 0x4000, 0xF000⟩
  | .seReg _ _ => ⟨"SE_Vx_Vy", 0x5000, 0xF00F⟩
  | .ldImm _ _ => ⟨"LD_Vx_nn", 0x6000, 0xF000⟩
  | .addImm _ _ => ⟨"ADD_Vx_nn", 0x7000, 0xF000⟩
  | .ldReg _ _ => ⟨"LD_Vx_Vy", 0x8000, 0xF00F⟩
  | .orReg _ _ => ⟨"OR_Vx_Vy", 0x8001, 0xF00F⟩
  | .andReg _ _ => ⟨"AND_Vx_Vy", 0x8002, 0xF00F⟩
  | .xorReg _ _ => ⟨"XOR_Vx_Vy", 0x8003, 0xF00F⟩
  | .addReg _ _ => ⟨"ADD_Vx_Vy", 0x8004, 0xF00F⟩
  | .subReg _ _ => ⟨"SUB_Vx_Vy", 0x8005, 0xF00F⟩
  | .shr _ _ => ⟨"SHR_Vx", 0x8006, 0xF00F⟩
  | .subnReg _ _ => ⟨"SUBN_Vx_Vy", 0x8007, 0xF00F⟩
  | .shl _ _ => ⟨"SHL_Vx", 0x800E, 0xF00F⟩
  | .sneReg _ _ => ⟨"SNE_Vx_Vy", 0x9000, 0xF00F⟩
  | .ldI _ => ⟨"LD_I_nnn", 0xA000, 0xF000⟩
  | .jpV0 _ => ⟨"JP_V0_nnn", 0xB000, 0xF000⟩
  | .rnd _ _ => ⟨"RND_Vx_nn", 0xC000, 0xF000⟩
  | .drw _ _ _ => ⟨"DRW_Vx_Vy_n", 0xD000, 0xF000⟩
  | .skp _ => ⟨"SKP_Vx", 0xE09E, 0xF0FF⟩
  | .sknp _ => ⟨"SKNP_Vx", 0xE0A1, 0xF0FF⟩
  | .ldFromDT _ => ⟨"LD_Vx_DT", 0xF007, 0xF0FF⟩
  | .ldKey _ => ⟨"LD_Vx_K", 0xF00A, 0xF0FF⟩
  | .ldDT _ => ⟨"LD_DT_Vx", 0xF015, 0xF0FF⟩
  | .ldST _ => ⟨"LD_ST_Vx", 0xF018, 0xF0FF⟩
  | .addI _ => ⟨"ADD_I_Vx", 0xF01E, 0xF0FF⟩
  | .ldFont _ => ⟨"LD_F_Vx", 0xF029, 0xF0FF⟩
  | .ldBcd _ => ⟨"LD_B_Vx", 0xF033, 0xF0FF⟩
  | .store _ => ⟨"LD__I__Vx", 0xF055, 0xF0FF⟩
  | .load _ => ⟨"LD_Vx__I", 0xF065, 0xF0FF⟩

/-- One term of every constructor, in the order of the opcode map. -/
def variants : List Instr :=
  [.sys 0, .cls, .ret, .jp 0, .call 0, .seImm 0 0, .sneImm 0 0, .seReg 0 0, .ldImm 0 0, .addImm 0 0, .ldReg 0 0,
    .orReg 0 0] ++
  [.andReg 0 0, .xorReg 0 0, .addReg 0 0, .subReg 0 0, .shr 0 0, .subnReg 0 0, .shl 0 0, .sneReg 0 0, .ldI 0, .jpV0 0,
    .rnd 0 0, .drw 0 0 0] ++
  [.skp 0, .sknp 0, .ldFromDT 0, .ldKey 0, .ldDT 0, .ldST 0, .addI 0, .ldFont 0, .ldBcd 0, .store 0, .load 0]

/-- The opcode map, in its order. -/
def opcodeMap : List OpcodeRow := variants.map opcodeRow

/-- The word belongs to the row. -/
def OpcodeRow.holds (row : OpcodeRow) (op : Word) : Bool := op &&& row.mask == row.value

/-! ### The encoder (R60, R63) -/

/-- A word of the formats `0nnn`, `1nnn`, `2nnn`, `Annn` and `Bnnn`. -/
def packAddr (n3 : BitVec 4) (nnn : Addr) : Word := n3 ++ nnn

/-- A word of the formats `_xnn`, `Ex__` and `Fx__`. -/
def packByte (n3 : BitVec 4) (x : Reg) (nn : Byte) : Word := n3 ++ nibbleField x ++ nn

/-- A word of the formats `_xy_`. -/
def packRegs (n3 : BitVec 4) (x y : Reg) (n : BitVec 4) : Word := n3 ++ nibbleField x ++ nibbleField y ++ n

/-- The word of an instruction. -/
def encode (i : Instr) : Word :=
  match i with
  | .sys nnn => packAddr 0x0 nnn
  | .cls => 0x00E0
  | .ret => 0x00EE
  | .jp nnn => packAddr 0x1 nnn
  | .call nnn => packAddr 0x2 nnn
  | .seImm x nn => packByte 0x3 x nn
  | .sneImm x nn => packByte 0x4 x nn
  | .seReg x y => packRegs 0x5 x y 0x0
  | .ldImm x nn => packByte 0x6 x nn
  | .addImm x nn => packByte 0x7 x nn
  | .ldReg x y => packRegs 0x8 x y 0x0
  | .orReg x y => packRegs 0x8 x y 0x1
  | .andReg x y => packRegs 0x8 x y 0x2
  | .xorReg x y => packRegs 0x8 x y 0x3
  | .addReg x y => packRegs 0x8 x y 0x4
  | .subReg x y => packRegs 0x8 x y 0x5
  | .shr x y => packRegs 0x8 x y 0x6
  | .subnReg x y => packRegs 0x8 x y 0x7
  | .shl x y => packRegs 0x8 x y 0xE
  | .sneReg x y => packRegs 0x9 x y 0x0
  | .ldI nnn => packAddr 0xA nnn
  | .jpV0 nnn => packAddr 0xB nnn
  | .rnd x nn => packByte 0xC x nn
  | .drw x y n => packRegs 0xD x y (nibbleField n)
  | .skp x => packByte 0xE x 0x9E
  | .sknp x => packByte 0xE x 0xA1
  | .ldFromDT x => packByte 0xF x 0x07
  | .ldKey x => packByte 0xF x 0x0A
  | .ldDT x => packByte 0xF x 0x15
  | .ldST x => packByte 0xF x 0x18
  | .addI x => packByte 0xF x 0x1E
  | .ldFont x => packByte 0xF x 0x29
  | .ldBcd x => packByte 0xF x 0x33
  | .store x => packByte 0xF x 0x55
  | .load x => packByte 0xF x 0x65

/-! ### Bytes (R46, R68) -/

/-- The word of two bytes: the byte at the lower address is the high byte (R46). -/
def wordOfBytes (hi lo : Byte) : Word := hi ++ lo

/-- The two bytes of a word as they lie in memory, the lower address first (R46, R55). -/
def highByte (op : Word) : Byte := op.extractLsb' 8 8
/-- The byte of a word at the higher address. -/
def lowByte (op : Word) : Byte := op.extractLsb' 0 8

/-- The first instruction of a byte stream and the bytes after it: always exactly two bytes are consumed (R68). -/
def decodeBytes (bytes : List Byte) : Except DecodeError (Instr × List Byte) :=
  match bytes with
  | hi :: lo :: rest =>
    match decode (wordOfBytes hi lo) with
    | .ok i => .ok (i, rest)
    | .error e => .error e
  | _ => .error .tooShort

/-- The word of a row of spec/opcode_table.json whose `nbits` low bits are `w`. -/
def tableWord (nbits w : Nat) : Word := BitVec.ofNat Config.instrWidth (w % 2 ^ nbits)

/-- The bytes of an opcode-table word, laid out as memory holds them. -/
def tableBytes (nbits w : Nat) : List Byte := [highByte (tableWord nbits w), lowByte (tableWord nbits w)]

/-- What the decoder reads from an instruction whose bits are `w`, numbered as spec/opcode_table.json numbers them. -/
def decodeTableWord (nbits w : Nat) : Option Instr :=
  match decodeBytes (tableBytes nbits w) with
  | .ok (i, _) => some i
  | .error _ => none

end Sys2Proof
end

