-- ==== Sys2Proof/Machine/Control.lean ====
section
/-! DEFINITION. Control transfer and skips (spec/41_control.md). `s.pc` is the address of the instruction being executed
(R84); jump targets are not checked (R90). -/

namespace Sys2Proof.Machine

/-- `SYS nnn` (R91): always UnknownOpcode with the raw word. -/
def execSys (nnn : Addr) (_s : State) : Result := raise (.unknownOpcode (encode (.sys nnn)))

/-- `RET` (R92): pop the latest return address into pc. -/
def execRet (s : State) : Result :=
  deliver do
    let (target, s) ← popFrame s
    .ok (s.setPc target)

/-- `JP nnn` (R93). -/
def execJp (nnn : Addr) (s : State) : Result := .next (s.setPc (addrOperand nnn))

/-- `CALL nnn` (R94): push the address of the instruction after the CALL, then jump. -/
def execCall (nnn : Addr) (s : State) : Result :=
  deliver do
    let s ← pushFrame s (s.pc + 2)
    .ok (s.setPc (addrOperand nnn))

/-- `SE Vx,nn` (R95). -/
def execSeImm (x : Reg) (nn : Byte) (s : State) : Result := .next (s.skipIf (s.getV x == nn))

/-- `SNE Vx,nn` (R96). -/
def execSneImm (x : Reg) (nn : Byte) (s : State) : Result := .next (s.skipIf (s.getV x != nn))

/-- `SE Vx,Vy` (R97). -/
def execSeReg (x y : Reg) (s : State) : Result := .next (s.skipIf (s.getV x == s.getV y))

/-- `SNE Vx,Vy` (R98). -/
def execSneReg (x y : Reg) (s : State) : Result := .next (s.skipIf (s.getV x != s.getV y))

/-- `JP V0,nnn` (R99): a 16-bit sum, no 12-bit mask; the base register is always V0. -/
def execJpV0 (nnn : Addr) (s : State) : Result := .next (s.setPc (addrOperand nnn + offsetOperand s 0))

end Sys2Proof.Machine
end

