-- ==== Sys2Proof/Machine/Display.lean ====
section
/-! DEFINITION. The framebuffer writer (spec/44_display.md): CLS and DRW. Columns are counted left to right and rows top
to bottom, and both wrap at the screen's edges (R130, R132). -/

namespace Sys2Proof.Machine

/-- `FB[c][r]` (R16). -/
def pixel (fb : Framebuffer) (c : Fin 64) (r : Fin 32) : Bool := fb[c][r]

/-- `FB[c][r] <- FB[c][r] ^ 1`. -/
def flipPixel (fb : Framebuffer) (c : Fin 64) (r : Fin 32) : Framebuffer := fb.set c (fb[c].set r (!pixel fb c r))

/-- The screen with every pixel 0 (R131). -/
def clearScreen : Framebuffer := Vector.replicate 64 (Vector.replicate 32 false)

/-- The column of a sprite's bit, `(cx + col) mod 64` (R132). -/
def spriteColumn (cx : Byte) (col : Nat) : Fin 64 := ⟨(cx.toNat + col) % Config.fbW, Nat.mod_lt _ (by decide)⟩

/-- The row of a sprite's byte, `(cy + row) mod 32` (R132). -/
def spriteRow (cy : Byte) (row : Nat) : Fin 32 := ⟨(cy.toNat + row) % Config.fbH, Nat.mod_lt _ (by decide)⟩

/-- The bit of a sprite byte at a column; bit 7 is the leftmost (R132). -/
def spriteBit (b : Byte) (col : Nat) : Bool := b.getLsbD (7 - col)

/-- One sprite bit: a 1 flips its pixel, and a pixel that was 1 is a collision. The pair is the framebuffer and the
collision seen so far. -/
def drawBit (bit : Bool) (c : Fin 64) (r : Fin 32) (drawn : Framebuffer × Bool) : Framebuffer × Bool :=
  if bit then (flipPixel drawn.1 c r, drawn.2 || pixel drawn.1 c r) else drawn

/-- One sprite byte, its columns left to right. -/
def drawRow (cx : Byte) (r : Fin 32) (b : Byte) (drawn : Framebuffer × Bool) : Framebuffer × Bool :=
  (List.range 8).foldl (fun drawn col => drawBit (spriteBit b col) (spriteColumn cx col) r drawn) drawn

/-- The sprite bytes from row number `row` on. -/
def drawRows (cx cy : Byte) (row : Nat) (sprite : List Byte) (drawn : Framebuffer × Bool) : Framebuffer × Bool :=
  match sprite with
  | [] => drawn
  | b :: bs => drawRows cx cy (row + 1) bs (drawRow cx (spriteRow cy row) b drawn)

/-- `CLS` (R131). -/
def execCls (s : State) : Result := .next (s.paint clearScreen).advance

/-- `DRW Vx,Vy,n` (R132): XOR the n bytes at I onto the framebuffer at (V[x], V[y]); VF is the collision flag. -/
def execDrw (x y : Reg) (n : Count) (s : State) : Result :=
  deliver do
    let sprite ← readRange s (indexAddress s) n.val
    let drawn := drawRows (s.getV x) (s.getV y) 0 sprite (s.fb, false)
    .ok ((s.paint drawn.1).setFlag drawn.2).advance

end Sys2Proof.Machine
end

