-- ==== Sys2Proof/Machine/IndexMemory.lean ====
section
/-! DEFINITION. The index register and the memory-block instructions (spec/43_index_memory.md). The memory forms check
their whole range before any access and leave I unchanged (R120). -/

namespace Sys2Proof.Machine

/-- `LD I,nnn` (R121). -/
def execLdI (nnn : Addr) (s : State) : Result := .next (s.setI (addrOperand nnn)).advance

/-- `ADD I,Vx` (R122): a 16-bit sum; VF is the carry out of bit 15, written on every execution. -/
def execAddI (x : Reg) (s : State) : Result :=
  let a := s.getV x
  .next ((s.setI (s.i + offsetOperand s x)).setFlag (carry16 s.i a)).advance

/-- `LD F,Vx` (R123). -/
def execLdFont (x : Reg) (s : State) : Result := .next (s.setI (glyphAddress (s.getV x))).advance

/-- `LD B,Vx` (R124): the decimal digits of V[x] at I, I+1 and I+2. -/
def execLdBcd (x : Reg) (s : State) : Result :=
  deliver do
    let s ← writeRange s (indexAddress s) (decimalDigits (s.getV x))
    .ok s.advance

/-- `LD [I],Vx` (R125): V0..Vx at I..I+x. -/
def execStore (x : Reg) (s : State) : Result :=
  deliver do
    let s ← writeRange s (indexAddress s) (registersTo s x)
    .ok s.advance

/-- `LD Vx,[I]` (R126): the bytes at I..I+x into V0..Vx. -/
def execLoad (x : Reg) (s : State) : Result :=
  deliver do
    let bytes ← readRange s (indexAddress s) (x.val + 1)
    .ok (loadRegisters s 0 bytes).advance

end Sys2Proof.Machine
end

