-- ==== Sys2Proof/Machine/TimersKeys.lean ====
section
/-! DEFINITION. The timer and key instructions (spec/45_timers_input.md). None can fault (R140). -/

namespace Sys2Proof.Machine

/-- `LD Vx,DT` (R141). -/
def execLdFromDT (x : Reg) (s : State) : Result := .next (s.setV x s.dt).advance

/-- `LD DT,Vx` (R142). -/
def execLdDT (x : Reg) (s : State) : Result := .next (s.setDT (s.getV x)).advance

/-- `LD ST,Vx` (R143). -/
def execLdST (x : Reg) (s : State) : Result := .next (s.setST (s.getV x)).advance

/-- `SKP Vx` (R144). -/
def execSkp (x : Reg) (s : State) : Result := .next (s.skipIf (keyPressed s x))

/-- `SKNP Vx` (R145). -/
def execSknp (x : Reg) (s : State) : Result := .next (s.skipIf (!keyPressed s x))

/-- `LD Vx,K` (R146): enter the wait; V[x] is written when a key press ends it (R147, Machine/HostOps.lean). -/
def execLdKey (x : Reg) (s : State) : Result := .next (s.setExec (.awaitingKey x)).advance

end Sys2Proof.Machine
end

