-- ==== Sys2Proof/Machine/Fetch.lean ====
section
/-! DEFINITION. The fetch unit and what a step does before it executes (spec/40_fetch_and_step.md), and the place of the
next instruction in memory. -/

namespace Sys2Proof.Machine

/-- The opcode at pc, big-endian; past address 4095 the fetch faults (R82, R46). -/
def fetch (s : State) : Except Fault Word :=
  if inRange (s.pc.toNat + 1) then do
    let hi ← memRead s s.pc.toNat
    let lo ← memRead s (s.pc.toNat + 1)
    .ok (wordOfBytes hi lo)
  else .error .memoryOutOfBounds

/-- What a step does, once exec, the fetch and the decoder have spoken (R80, R86). -/
inductive Action where
  /-- Nothing: the core is in AwaitingKey (R81). -/
  | idle
  /-- The fetch or the decoder faulted (R82, R83). -/
  | stop (f : Fault)
  /-- Execute this instruction (R84). -/
  | run (i : Instr)
  deriving DecidableEq, Repr

/-- The action of the next step, its checks in the order of R86. -/
def nextAction (s : State) : Action :=
  match s.execState with
  | .awaitingKey _ => .idle
  | .running =>
    match fetch s with
    | .error f => .stop f
    | .ok op =>
      match decode op with
      | .error _ => .stop (.unknownOpcode op)
      | .ok i => .run i

/-- The state made ready to fetch: Running, and pc at PROG_BASE if the fetch at pc would run past memory. -/
def fetchReady (s : State) : State :=
  let s := s.setExec .running
  if inRange (s.pc.toNat + 1) then s else s.setPc (BitVec.ofNat 16 Config.progBase)

/-- The state with an instruction word stored at pc as memory holds it (R46, R55). -/
def placeWord (s : State) (op : Word) : State :=
  s.setMem (Memory.writeRun s.mem s.pc.toNat [highByte op, lowByte op])

end Sys2Proof.Machine
end

