-- ==== Sys2Proof/Machine/Step.lean ====
section
/-! DEFINITION. The step operation (R80) and the placing of an instruction where the next step fetches it. -/

namespace Sys2Proof.Machine

/-- `step()` (R80): nothing in AwaitingKey; else fetch, decode and execute one instruction. -/
def step (s : State) : Host.Outcome State Fault Refusal :=
  match nextAction s with
  | .idle => .next s
  | .stop f => raise f
  | .run i => exec i s

/-- `s` with the instruction whose opcode-table bits are `w` stored where the next step fetches it. Nothing but memory
changes in a Running state whose pc can be fetched from (notes/assumptions/7.md). -/
def State.withFetchWord (s : State) (nbits w : Nat) : State := placeWord (fetchReady s) (tableWord nbits w)

end Sys2Proof.Machine
end

