-- ==== Sys2Proof/Machine/HostOps.lean ====
section
/-! DEFINITION. The operations the host issues between steps (R163): the timer tick, the key events with the resolution of
the key wait, the loader, the framebuffer snapshot, the dirty flag and the sound level; and a run as the sequence of
operations the host chose (P_SCHEDULE, R168). -/

namespace Sys2Proof.Machine

/-- A timer after one tick: decremented by 1, floored at 0 (R161). -/
def countDown (b : Byte) : Byte := if b.toNat > 0 then b - 1 else b

/-- `tick_timers()` (R161). -/
def tickTimers (s : State) : State := (s.setDT (countDown s.dt)).setST (countDown s.st)

/-- The end of the key wait: only a released-to-pressed transition ends it, by writing the key's code to V[x] (R147). -/
def resolveWait (s : State) (code : Key) (pressed was : Bool) : State :=
  match s.execState with
  | .running => s
  | .awaitingKey x =>
    if pressed && !was then (s.setV x (BitVec.ofNat 8 code.val)).setExec .running else s

/-- `set_key_state(code, pressed)` (R147, R164). A code outside 0..15 is not admitted: `Key` has none. -/
def setKeyState (code : Key) (pressed : Bool) (s : State) : State :=
  resolveWait (s.setKey code pressed) code pressed s.keys[code]

/-- `load_program(bytes)` (R54, R55): the bytes verbatim from 0x200 on, or ProgramTooLarge and nothing changed. -/
def loadProgram (bytes : List Byte) (s : State) : Except Fault State :=
  if bytes.length > Config.progMax then .error .programTooLarge
  else .ok (s.setMem (Memory.writeRun s.mem Config.progBase bytes))

/-- `framebuffer_snapshot()` (R165): the grid; no state changes. -/
def framebufferSnapshot (s : State) : Framebuffer := s.fb

/-- `consume_dirty()` (R166): the value of dirty, then `dirty <- 0`. -/
def consumeDirty (s : State) : Bool × State := (s.dirty, s.clearDirty)

/-- The sound output (R162): the level `ST > 0`. -/
def soundOutput (s : State) : Bool := decide (s.st.toNat > 0)

/-- The operations of R163. The randomness source is attached at construction: `Config.randomSource`. -/
inductive HostOp where
  | step
  | tickTimers
  | setKeyState (code : Key) (pressed : Bool)
  | loadProgram (bytes : List Byte)
  | framebufferSnapshot
  | consumeDirty
  | soundOutput
  deriving DecidableEq, Repr

/-- What an operation returns (R163). -/
inductive Reply where
  | ok
  | fault (f : Fault)
  | nothing
  | grid (fb : Framebuffer)
  | dirty (b : Bool)
  | level (b : Bool)
  /-- No operation of this model returns it: `exec` refuses no instruction. -/
  | refused (r : Refusal)
  deriving DecidableEq, Repr

/-- One operation as one transition (R50): its reply and the state after it, which after a fault is the state before it
(R85, R88). -/
def perform (op : HostOp) (s : State) : Reply × State :=
  match op with
  | .step =>
    match step s with
    | .next t => (.ok, t)
    | .fault f => (.fault f, s)
    | .refused r => (.refused r, s)
  | .tickTimers => (.nothing, tickTimers s)
  | .setKeyState code pressed => (.nothing, setKeyState code pressed s)
  | .loadProgram bytes =>
    match loadProgram bytes s with
    | .ok t => (.ok, t)
    | .error f => (.fault f, s)
  | .framebufferSnapshot => (.grid (framebufferSnapshot s), s)
  | .consumeDirty => (.dirty (consumeDirty s).1, (consumeDirty s).2)
  | .soundOutput => (.level (soundOutput s), s)

/-- The replies and the final state of a sequence of operations, issued one at a time (R51, R168). -/
def performAll (ops : List HostOp) (s : State) : List Reply × State :=
  match ops with
  | [] => ([], s)
  | op :: ops =>
    let (reply, s) := perform op s
    let (replies, s) := performAll ops s
    (reply :: replies, s)

end Sys2Proof.Machine
end

