-- ==== Sys2Proof/Safety.lean ====
section
/-! DEFINITION. The terms that statements about the machine use: the invariant of the core, what a step may change (the
frames), the register results, the pixels a sprite covers, and a safe run. -/

namespace Sys2Proof.Machine

/-! ### The invariant -/

/-- What holds of every state the core reaches and its types do not already say: memory has its canonical form, pc is at
most 10FE (R87), and every return address is at most 1000 (R26). -/
structure State.Inv (s : State) : Prop where
  mem_wf : Memory.wf s.mem = true
  pc_le : s.pc.toNat ≤ 0x10FE
  stack_le : ∀ j : Fin 16, s.stack[j].toNat ≤ 0x1000

/-- A safe run: every operation of the sequence was answered without a fault or a refusal. -/
def SafeRun (ops : List HostOp) (s : State) : Prop :=
  ∀ r ∈ (performAll ops s).1, (∀ f, r ≠ .fault f) ∧ ∀ e, r ≠ .refused e

/-! ### Frames: `t` is `s` but for the named state -/

/-- Only pc may differ. -/
def SameButPc (s t : State) : Prop := { t with pc := s.pc } = s

/-- Only V0..VF and pc may differ. -/
def SameButRegs (s t : State) : Prop := { t with v := s.v, pc := s.pc } = s

/-- Only V0..VF, I and pc may differ. -/
def SameButRegsIndex (s t : State) : Prop := { t with v := s.v, i := s.i, pc := s.pc } = s

/-- Only memory and pc may differ. -/
def SameButMemory (s t : State) : Prop := { t with mem := s.mem, pc := s.pc } = s

/-- Only the call stack, sp and pc may differ. -/
def SameButStack (s t : State) : Prop := { t with stack := s.stack, sp := s.sp, pc := s.pc } = s

/-- Only V0..VF, the framebuffer, the dirty flag and pc may differ. -/
def SameButRegsScreen (s t : State) : Prop :=
  { t with v := s.v, fb := s.fb, dirty := s.dirty, pc := s.pc } = s

/-! ### Results -/

/-- `t` is `s` with `V[x]` holding `result`, pc advanced by 2, and nothing else changed. -/
def WritesReg (s t : State) (x : Reg) (result : Byte) : Prop :=
  (∀ k, t.getV k = if k = x then result else s.getV k) ∧ t.pc = s.pc + 2 ∧ SameButRegs s t

/-- `t` is `s` with VF holding the flag, `V[x]` holding `result` where x is not F, pc advanced by 2, and nothing else
changed. -/
def WritesRegAndFlag (s t : State) (x : Reg) (result : Byte) (flag : Prop) [Decidable flag] : Prop :=
  (∀ k, t.getV k = if k = vF then (if flag then 1 else 0) else if k = x then result else s.getV k) ∧
    t.pc = s.pc + 2 ∧ SameButRegs s t

/-- The address is one of the `len` bytes from `base` on. -/
def InRun (base len a : Nat) : Prop := base ≤ a ∧ a < base + len

/-! ### Sprites -/

/-- Bit `col` (counted from the left) of the sprite byte at `base + row` is 1. -/
def spriteBitAt (m : Memory) (base row col : Nat) : Bool := (Memory.read m (base + row)).getLsbD (7 - col)

/-- The `n`-row sprite at `base`, drawn at column `cx` and row `cy`, has a 1 bit on the pixel (c, r), wrapping at both
edges (R132). -/
def Covers (m : Memory) (base n cx cy c r : Nat) : Prop :=
  ∃ row col, row < n ∧ col < 8 ∧ spriteBitAt m base row col = true ∧ (cx + col) % 64 = c ∧ (cy + row) % 32 = r

/-! ### When an instruction faults (R86, R150) -/

/-- The `len` bytes from I on run past address 4095 (R49). -/
abbrev IndexRunsPast (s : State) (len : Nat) : Prop := len ≥ 1 ∧ s.i.toNat + len - 1 > 0xFFF

/-- The fault an instruction raises in a state, if any: the conditions of R91, R92, R94, R124, R125, R126 and R132. -/
def faultOf (i : Instr) (s : State) : Option Fault :=
  match i with
  | .sys nnn => some (.unknownOpcode (BitVec.ofNat 16 nnn.toNat))
  | .ret => if s.sp.val = 0 then some .stackUnderflow else none
  | .call _ => if s.sp.val = 16 then some .stackOverflow else none
  | .drw _ _ n => if IndexRunsPast s n.val then some .memoryOutOfBounds else none
  | .ldBcd _ => if IndexRunsPast s 3 then some .memoryOutOfBounds else none
  | .store x | .load x => if IndexRunsPast s (x.val + 1) then some .memoryOutOfBounds else none
  | .cls | .jp _ | .seImm _ _ | .sneImm _ _ | .seReg _ _ | .ldImm _ _ | .addImm _ _ | .ldReg _ _ | .orReg _ _
  | .andReg _ _ | .xorReg _ _ | .addReg _ _ | .subReg _ _ | .shr _ _ | .subnReg _ _ | .shl _ _ | .sneReg _ _ | .ldI _
  | .jpV0 _ | .rnd _ _ | .skp _ | .sknp _ | .ldFromDT _ | .ldKey _ | .ldDT _ | .ldST _ | .addI _ | .ldFont _ => none

/-! ### Who writes what (R24) -/

/-- The instruction writes register k: its destination, VF where it writes a flag, or V0..Vx. -/
def writesReg (i : Instr) (k : Reg) : Bool :=
  match i with
  | .ldImm x _ | .addImm x _ | .ldReg x _ | .orReg x _ | .andReg x _ | .xorReg x _ | .rnd x _ | .ldFromDT x => k == x
  | .addReg x _ | .subReg x _ | .shr x _ | .subnReg x _ | .shl x _ => k == x || k == vF
  | .drw _ _ _ | .addI _ => k == vF
  | .load x => decide (k ≤ x)
  | .sys _ | .cls | .ret | .jp _ | .call _ | .seImm _ _ | .sneImm _ _ | .seReg _ _ | .sneReg _ _ | .ldI _ | .jpV0 _
  | .skp _ | .sknp _ | .ldKey _ | .ldDT _ | .ldST _ | .ldFont _ | .ldBcd _ | .store _ => false

/-- The flag-writing instructions (R11, R189). -/
def writesFlag (i : Instr) : Bool :=
  match i with
  | .addReg _ _ | .subReg _ _ | .shr _ _ | .subnReg _ _ | .shl _ _ | .drw _ _ _ | .addI _ => true
  | .sys _ | .cls | .ret | .jp _ | .call _ | .seImm _ _ | .sneImm _ _ | .seReg _ _ | .ldImm _ _ | .addImm _ _
  | .ldReg _ _ | .orReg _ _ | .andReg _ _ | .xorReg _ _ | .sneReg _ _ | .ldI _ | .jpV0 _ | .rnd _ _ | .skp _
  | .sknp _ | .ldFromDT _ | .ldKey _ | .ldDT _ | .ldST _ | .ldFont _ | .ldBcd _ | .store _ | .load _ => false

/-- The pieces of state the core has besides the registers and pc, and the model's own draw counter. -/
inductive Part where
  | i | stack | dt | st | fb | dirty | keys | execState | mem | draws
  deriving DecidableEq, Repr

/-- The instruction is a writer of the piece of state in the table of R24 (for `draws`: it takes a random byte, R167). -/
def writesPart (i : Instr) (p : Part) : Bool :=
  match i with
  | .cls => p == .fb || p == .dirty
  | .drw _ _ _ => p == .fb || p == .dirty
  | .ret | .call _ => p == .stack
  | .ldI _ | .addI _ | .ldFont _ => p == .i
  | .rnd _ _ => p == .draws
  | .ldDT _ => p == .dt
  | .ldST _ => p == .st
  | .ldKey _ => p == .execState
  | .ldBcd _ | .store _ => p == .mem
  | .sys _ | .jp _ | .seImm _ _ | .sneImm _ _ | .seReg _ _ | .ldImm _ _ | .addImm _ _ | .ldReg _ _ | .orReg _ _
  | .andReg _ _ | .xorReg _ _ | .addReg _ _ | .subReg _ _ | .shr _ _ | .subnReg _ _ | .shl _ _ | .sneReg _ _
  | .jpV0 _ | .skp _ | .sknp _ | .ldFromDT _ | .load _ => false

/-- The piece of state is the same in both states. -/
def SamePart (p : Part) (s t : State) : Prop :=
  match p with
  | .i => t.i = s.i
  | .stack => t.stack = s.stack ∧ t.sp = s.sp
  | .dt => t.dt = s.dt
  | .st => t.st = s.st
  | .fb => t.fb = s.fb
  | .dirty => t.dirty = s.dirty
  | .keys => t.keys = s.keys
  | .execState => t.execState = s.execState
  | .mem => t.mem = s.mem
  | .draws => t.draws = s.draws

/-- What an instruction that completes does to pc (R84): a jump, call or return sets it, a skip adds 2 or 4, and every
other instruction adds 2. -/
def PcRule (i : Instr) (s t : State) : Prop :=
  match i with
  | .ret | .jp _ | .call _ | .jpV0 _ | .sys _ => True
  | .seImm _ _ | .sneImm _ _ | .seReg _ _ | .sneReg _ _ | .skp _ | .sknp _ => t.pc = s.pc + 2 ∨ t.pc = s.pc + 4
  | .cls | .ldImm _ _ | .addImm _ _ | .ldReg _ _ | .orReg _ _ | .andReg _ _ | .xorReg _ _ | .addReg _ _ | .subReg _ _
  | .shr _ _ | .subnReg _ _ | .shl _ _ | .ldI _ | .rnd _ _ | .drw _ _ _ | .ldFromDT _ | .ldKey _ | .ldDT _ | .ldST _
  | .addI _ | .ldFont _ | .ldBcd _ | .store _ | .load _ => t.pc = s.pc + 2

/-- The operation presses a key. -/
def HostOp.presses (op : HostOp) : Bool :=
  match op with
  | .setKeyState _ pressed => pressed
  | .step | .tickTimers | .loadProgram _ | .framebufferSnapshot | .consumeDirty | .soundOutput => false

/-- The operation is a load that does not fit (R54). -/
def HostOp.overloads (op : HostOp) : Bool :=
  match op with
  | .loadProgram bytes => decide (bytes.length > Config.progMax)
  | .step | .tickTimers | .setKeyState _ _ | .framebufferSnapshot | .consumeDirty | .soundOutput => false

end Sys2Proof.Machine
end

