-- ==== Sys2Proof/Certificates/Slice0/Obligations.lean ====
section
/-! DEFINITION. The statements about the model, for the provers. Each docstring names the rule of spec/ it formalises; a
clause that rests on a decision of the spec (92_eei_decisions.md) says so. Numbers are computed on naturals, as the
pseudocode of the spec does. -/

open Sys2Proof Sys2Proof.Machine

/-! ### Encoding -/

/-- R63, R64: the decoder reads every well-formed instruction back from its own word, with every operand at every value. -/
def Obligations.DecodeOfEncodeIsIdentity : Prop := ∀ i, WellFormed i → decode (encode i) = .ok i

/-- R63, R64, R66: every word that decodes is the word of the instruction it decodes to, so no bit of it is lost. -/
def Obligations.EncodeOfDecodeIsIdentity : Prop := ∀ op i, decode op = .ok i → WellFormed i ∧ encode i = op

/-- R63: a word decodes exactly when it belongs to a row of the opcode map, and then it belongs to the row of the
instruction it decodes to. (The map's numbers are general knowledge by the spec's own mark, GK2 and GK3, and its SYS row
and family 9 its decisions D4 and D5: notes/assumptions/9.md.) -/
def Obligations.DecodesExactlyTheOpcodeMap : Prop :=
  ∀ op, ((∃ i, decode op = .ok i) ↔ ∃ row ∈ opcodeMap, row.holds op = true) ∧
    ∀ i, decode op = .ok i → (opcodeRow i).holds op = true

/-- R63: two rows of the opcode map share a word only if one of them is the SYS row and the other is CLS or RET. (The
map's numbers, on which this rests, are general knowledge by the spec's own mark, GK2 and GK3: notes/assumptions/9.md.) -/
def Obligations.OpcodeMapRowsDoNotOverlap : Prop :=
  ∀ a ∈ opcodeMap, ∀ b ∈ opcodeMap, ∀ op, a.holds op = true → b.holds op = true → a ≠ b →
    (a.mnemonic = "SYS_nnn" ∧ (b.mnemonic = "CLS" ∨ b.mnemonic = "RET")) ∨
      (b.mnemonic = "SYS_nnn" ∧ (a.mnemonic = "CLS" ∨ a.mnemonic = "RET"))

/-- R65 (its table, not its counts; family 9 by the spec's decision D5): the words that decode to no instruction. (The
selectors of families 8, E and F are general knowledge by the spec's own mark, GK2: notes/assumptions/9.md.) -/
def Obligations.UnknownWordsAreExactlyThese : Prop :=
  ∀ op : Word, decode op = .error (.unknown op) ↔
    (op.toNat / 4096 = 5 ∧ op.toNat % 16 ≠ 0) ∨
    (op.toNat / 4096 = 8 ∧ op.toNat % 16 ≥ 8 ∧ op.toNat % 16 ≠ 0xE) ∨
    (op.toNat / 4096 = 9 ∧ op.toNat % 16 ≠ 0) ∨
    (op.toNat / 4096 = 0xE ∧ op.toNat % 256 ∉ [0x9E, 0xA1]) ∨
    (op.toNat / 4096 = 0xF ∧ op.toNat % 256 ∉ [0x07, 0x0A, 0x15, 0x18, 0x1E, 0x29, 0x33, 0x55, 0x65])

/-- R68, R46: a byte stream decodes to an instruction exactly when its first two bytes are that instruction's word, high
byte first, and the rest of the stream is left over. -/
def Obligations.InstructionIsTwoBytesHighFirst : Prop :=
  ∀ bytes i rest, decodeBytes bytes = .ok (i, rest) ↔
    WellFormed i ∧ bytes = highByte (encode i) :: lowByte (encode i) :: rest

/-- R63, and the worked examples W11 to W14 of 95_test_vectors.md: words written out from the opcode map, at least one
of every family. (Most opcode numbers are general knowledge by the spec's own mark, GK2: notes/assumptions/9.md.) -/
def Obligations.SampleWordsDecode : Prop :=
  decode 0x00E0 = .ok .cls ∧ decode 0x1234 = .ok (.jp 0x234) ∧ decode 0x6A07 = .ok (.ldImm 0xA 0x07) ∧
  decode 0x5001 = .error (.unknown 0x5001) ∧ decode 0x024E = .ok (.sys 0x24E) ∧ decode 0x00EE = .ok .ret ∧
  decode 0x2210 = .ok (.call 0x210) ∧ decode 0x332A = .ok (.seImm 3 0x2A) ∧ decode 0x432B = .ok (.sneImm 3 0x2B) ∧
  decode 0x5120 = .ok (.seReg 1 2) ∧ decode 0x7202 = .ok (.addImm 2 0x02) ∧ decode 0x8124 = .ok (.addReg 1 2) ∧
  decode 0x8406 = .ok (.shr 4 0) ∧ decode 0x9120 = .ok (.sneReg 1 2) ∧ decode 0xA300 = .ok (.ldI 0x300) ∧
  decode 0xB300 = .ok (.jpV0 0x300) ∧ decode 0xC00F = .ok (.rnd 0 0x0F) ∧ decode 0xD125 = .ok (.drw 1 2 5) ∧
  decode 0xE29E = .ok (.skp 2) ∧ decode 0xF30A = .ok (.ldKey 3) ∧ decode 0xF255 = .ok (.store 2)

/-! ### Memory -/

/-- R41, R42: a byte access past address 4095 faults; else a read gives the byte and changes nothing, and a write stores
the byte and changes nothing else. -/
def Obligations.ByteAccessesAreChecked : Prop :=
  ∀ (s : State) (a : Nat) (v : Byte),
    (a > 0xFFF → memRead s a = .error .memoryOutOfBounds ∧ memWrite s a v = .error .memoryOutOfBounds) ∧
    (a ≤ 0xFFF → memRead s a = .ok (Memory.read s.mem a) ∧
      ∃ t, memWrite s a v = .ok t ∧ { t with mem := s.mem } = s ∧
        ∀ b, Memory.read t.mem b = if b = a then v else Memory.read s.mem b)

/-- The model's own form of memory (notes/assumptions/6.md): two memories in canonical form that read the same at every
address are the same data. -/
def Obligations.EqualReadsMakeEqualMemories : Prop :=
  ∀ m m' : Memory, Memory.wf m = true → Memory.wf m' = true →
    (∀ a, Memory.read m a = Memory.read m' a) → m = m'

/-! ### Fetch and step -/

/-- R46: the fetched word is `(mem[pc] << 8) | mem[pc+1]`. -/
def Obligations.FetchIsBigEndian : Prop :=
  ∀ s : State, s.pc.toNat + 1 ≤ 0xFFF →
    ∃ op, fetch s = .ok op ∧
      op.toNat = (Memory.read s.mem s.pc.toNat).toNat * 256 + (Memory.read s.mem (s.pc.toNat + 1)).toNat

/-- R80, R84: in Running, when the two bytes at pc decode to an instruction, a step is that instruction's execution. -/
def Obligations.StepRunsTheDecodedInstruction : Prop :=
  ∀ (s : State) (i : Instr), s.execState = .running → s.pc.toNat + 1 ≤ 0xFFF →
    decode (wordOfBytes (Memory.read s.mem s.pc.toNat) (Memory.read s.mem (s.pc.toNat + 1))) = .ok i →
    step s = exec i s

/-- R82 (the spec's decision D8): a fetch whose second byte lies past address 4095 faults, and the state stays. -/
def Obligations.FetchPastMemoryFaults : Prop :=
  ∀ s : State, s.execState = .running → s.pc.toNat + 1 > 0xFFF →
    step s = .fault .memoryOutOfBounds ∧ perform .step s = (.fault .memoryOutOfBounds, s)

/-- R83: a word that decodes to no instruction faults with the raw word, and the state, pc with it, stays. -/
def Obligations.UndecodableWordFaults : Prop :=
  ∀ (s : State) (op : Word) (e : DecodeError), s.execState = .running → fetch s = .ok op → decode op = .error e →
    step s = .fault (.unknownOpcode op) ∧ perform .step s = (.fault (.unknownOpcode op), s)

/-- R81 (the spec's decision D27): in AwaitingKey a step answers the same state, wherever pc points. -/
def Obligations.AwaitingStepDoesNothing : Prop :=
  ∀ (s : State) (x : Reg), s.execState = .awaitingKey x → step s = .next s

/-- About the model's own device `State.withFetchWord`, which stands for a load of one word at pc (notes/assumptions/7.md,
DESIGN CHOICE; no rule speaks of placing one word): an instruction's word so placed is what the next step runs, and
placing it changes no other byte of memory and no other state. The bytes are laid and fetched high byte first as R46 says
of a fetch, and the step is that of R80. -/
def Obligations.PlacedInstructionRunsNext : Prop :=
  ∀ (s : State) (i : Instr), s.execState = .running → s.pc.toNat + 1 ≤ 0xFFF → WellFormed i →
    step (s.withFetchWord 16 (encode i).toNat) = exec i (s.withFetchWord 16 (encode i).toNat) ∧
      { s.withFetchWord 16 (encode i).toNat with mem := s.mem } = s ∧
      ∀ a, a ≠ s.pc.toNat → a ≠ s.pc.toNat + 1 →
        Memory.read (s.withFetchWord 16 (encode i).toNat).mem a = Memory.read s.mem a

/-- R85, R88 (the spec's decisions D7 and D28): a faulting step leaves the state as it was, and a further step faults in
the same way. -/
def Obligations.FaultingStepChangesNothingAndRecurs : Prop :=
  ∀ (s : State) (f : Fault), step s = .fault f →
    perform .step s = (.fault f, s) ∧ performAll [.step, .step] s = ([.fault f, .fault f], s)

/-- R86: an instruction faults exactly on the spec's conditions for it, with the fault the spec names, and otherwise it
completes; none is refused. (SYS's fault is the spec's decision D4, notes/assumptions/10.md; that DRW with n = 0 never
faults is its decision D18, notes/assumptions/18.md.) -/
def Obligations.InstructionFaultsExactlyAsSpecified : Prop :=
  ∀ (i : Instr) (s : State),
    (∀ f, faultOf i s = some f → exec i s = .fault f) ∧ (faultOf i s = none → ∃ t, exec i s = .next t)

/-- R86: the faults of a step, in the order of its checks. (The order is the spec's decision D33; the fault of a fetch is
its D8, notes/assumptions/11.md; SYS's fault is its D4, notes/assumptions/10.md; that DRW with n = 0 never faults is its
D18, notes/assumptions/18.md; no fault in AwaitingKey is its D27, notes/assumptions/17.md.) -/
def Obligations.StepFaultsExactlyAsSpecified : Prop :=
  ∀ (s : State) (f : Fault), step s = .fault f ↔
    s.execState = .running ∧
      ((s.pc.toNat + 1 > 0xFFF ∧ f = .memoryOutOfBounds) ∨
        ∃ op, fetch s = .ok op ∧
          ((decode op = .error (.unknown op) ∧ f = .unknownOpcode op) ∨
            ∃ i, decode op = .ok i ∧ faultOf i s = some f))

/-! ### Whole-machine rules -/

/-- R24: a piece of state is unchanged by every instruction that is not one of its writers, and a register by every
instruction that does not name it as its destination or its flag. (That LD B, LD [I],Vx, LD Vx,[I] and DRW leave I
unchanged is the spec's decision D12, notes/assumptions/14.md; the part `draws` is the model's own field, no state of the
core, notes/assumptions/2.md.) -/
def Obligations.OnlyTheWritersChangeAPiece : Prop :=
  ∀ (i : Instr) (s t : State), exec i s = .next t →
    (∀ k, writesReg i k = false → t.getV k = s.getV k) ∧ ∀ p, writesPart i p = false → SamePart p s t

/-- R84, in part: every instruction that completes adds 2 to pc, or 2 or 4 for a skip, but for the jumps, CALL and RET, of
which this says nothing. (When a skip adds 4, and where the jumps, CALL and RET go, is said by their own statements. That
LD Vx,K adds 2 as it enters the wait is the spec's decision D15, notes/assumptions/17.md.) -/
def Obligations.EveryInstructionAdvancesPcByItsRule : Prop :=
  ∀ (i : Instr) (s t : State), exec i s = .next t → PcRule i s t

/-- R11, R189 (for x = F the flag remains: the spec's decision D11, notes/assumptions/13.md; DRW with n = 0 writes 0: its
D18, notes/assumptions/18.md): each flag-writing instruction leaves 0 or 1 in VF, whatever its operands. -/
def Obligations.FlagWritersLeaveZeroOrOne : Prop :=
  ∀ (i : Instr) (s t : State), writesFlag i = true → exec i s = .next t → t.getV vF = 0 ∨ t.getV vF = 1

/-- The invariant holds at reset: pc is 0x200, as the source says (R25), and so at most 10FE (R87). The return addresses
are within R26's bound because the stack is zero, the spec's decision D2 (notes/assumptions/4.md, DESIGN CHOICE), and the
form of memory is the model's own (notes/assumptions/6.md). -/
def Obligations.ResetMeetsTheInvariant : Prop := State.Inv State.reset

/-- R87, R26, and the model's memory form (notes/assumptions/6.md): every step from a state that meets the invariant
answers one that meets it. So pc never passes 10FE (which JP V0 reaches by the spec's decision D10, notes/assumptions/14.md)
and no return address passes 1000 (which CALL pushes by its D6, notes/assumptions/12.md). -/
def Obligations.StepKeepsTheInvariant : Prop := ∀ s t : State, s.Inv → step s = .next t → t.Inv

/-- R87, R26, R163, and the model's memory form (notes/assumptions/6.md): every operation of the host keeps the invariant,
whether it is answered or faults (D6, D10: as StepKeepsTheInvariant). -/
def Obligations.HostOperationsKeepTheInvariant : Prop :=
  ∀ (s : State) (op : HostOp), s.Inv → (perform op s).2.Inv

/-! ### Control flow -/

/-- R91 (the spec's decision D4): SYS always faults with its raw word. -/
def Obligations.SysAlwaysFaults : Prop :=
  ∀ (nnn : Addr) (s : State), ∃ raw : Word, exec (.sys nnn) s = .fault (.unknownOpcode raw) ∧ raw.toNat = nnn.toNat

/-- R92 (the popped entry keeping its value is the spec's decision D36): RET underflows with no frame active; else it
sets pc to the latest return address, counts one frame less and changes nothing else. -/
def Obligations.RetPopsTheLatestFrame : Prop :=
  ∀ s : State, (s.sp.val = 0 → exec .ret s = .fault .stackUnderflow) ∧
    ∀ j : Fin 16, s.sp.val = j.val + 1 →
      ∃ t, exec .ret s = .next t ∧ t.pc = s.stack[j] ∧ t.sp.val = j.val ∧ t.stack = s.stack ∧ SameButStack s t

/-- R93: the word 1nnn is JP, which sets pc to nnn and changes nothing else; at its own address it changes nothing. -/
def Obligations.JumpSetsPc : Prop :=
  ∀ (nnn : Addr) (s : State),
    decode (BitVec.ofNat 16 (0x1000 + nnn.toNat)) = .ok (.jp nnn) ∧
      ∃ t, exec (.jp nnn) s = .next t ∧ t.pc.toNat = nnn.toNat ∧ SameButPc s t ∧ (s.pc.toNat = nnn.toNat → t = s)

/-- R94 (that the pushed value is pc + 2 is the spec's decision D6): CALL overflows with 16 frames active; else it
pushes pc + 2, jumps, and changes nothing else. -/
def Obligations.CallPushesAndJumps : Prop :=
  ∀ (nnn : Addr) (s : State),
    (s.sp.val = 16 → exec (.call nnn) s = .fault .stackOverflow) ∧
    ∀ j : Fin 16, s.sp.val = j.val →
      ∃ t, exec (.call nnn) s = .next t ∧ t.pc.toNat = nnn.toNat ∧ t.sp.val = j.val + 1 ∧
        (∀ k : Fin 16, t.stack[k] = if k = j then s.pc + 2 else s.stack[k]) ∧ SameButStack s t

/-- R92, R94, W6 of 95_test_vectors.md: whatever the subroutine changed, so long as the call stack is as the CALL left
it, RET continues at the instruction after the CALL, with the frames that were active before it. -/
def Obligations.CallThenRetReturnsAfterTheCall : Prop :=
  ∀ (nnn : Addr) (s t u : State), exec (.call nnn) s = .next t → u.stack = t.stack → u.sp = t.sp →
    ∃ w, exec .ret u = .next w ∧ w.pc = s.pc + 2 ∧ w.sp = s.sp ∧ ∀ j : Fin 16, j.val < s.sp.val → w.stack[j] = s.stack[j]

/-- R99 (no 12-bit mask is the spec's decision D10): JP V0 sets pc to nnn + V0, which never wraps, and changes nothing
else. -/
def Obligations.JumpV0AddsV0 : Prop :=
  ∀ (nnn : Addr) (s : State),
    ∃ t, exec (.jpV0 nnn) s = .next t ∧ t.pc.toNat = nnn.toNat + (s.getV 0).toNat ∧ SameButPc s t

/-- R95 to R98: the skips on registers add 4 to pc when their condition holds and 2 when it does not, and change nothing
else. -/
def Obligations.RegisterSkipsSkipOneWord : Prop :=
  ∀ (x y : Reg) (nn : Byte) (s : State),
    (∃ t, exec (.seImm x nn) s = .next t ∧ t.pc = (if s.getV x = nn then s.pc + 4 else s.pc + 2) ∧ SameButPc s t) ∧
    (∃ t, exec (.sneImm x nn) s = .next t ∧ t.pc = (if s.getV x = nn then s.pc + 2 else s.pc + 4) ∧ SameButPc s t) ∧
    (∃ t, exec (.seReg x y) s = .next t ∧ t.pc = (if s.getV x = s.getV y then s.pc + 4 else s.pc + 2) ∧
      SameButPc s t) ∧
    (∃ t, exec (.sneReg x y) s = .next t ∧ t.pc = (if s.getV x = s.getV y then s.pc + 2 else s.pc + 4) ∧
      SameButPc s t)

/-! ### Arithmetic and logic -/

/-- R101: the word 6xnn is LD Vx,nn, which writes nn to V[x] (VF included, as data) and changes nothing else. -/
def Obligations.LoadImmediateWritesTheByte : Prop :=
  ∀ (x : Reg) (nn : Byte) (s : State),
    decode (BitVec.ofNat 16 (0x6000 + x.val * 256 + nn.toNat)) = .ok (.ldImm x nn) ∧
      ∃ t, exec (.ldImm x nn) s = .next t ∧ WritesReg s t x nn

/-- R102: the word 7xnn is ADD Vx,nn, which writes the sum modulo 256 (to VF too, as data) and no flag, and changes nothing
else. (The number 7 is general knowledge by the spec's own mark, GK2: notes/assumptions/9.md.) -/
def Obligations.AddImmediateWraps : Prop :=
  ∀ (x : Reg) (nn : Byte) (s : State),
    decode (BitVec.ofNat 16 (0x7000 + x.val * 256 + nn.toNat)) = .ok (.addImm x nn) ∧
      ∃ t, exec (.addImm x nn) s = .next t ∧ WritesReg s t x (BitVec.ofNat 8 (((s.getV x).toNat + nn.toNat) % 256))

/-- R103 to R106: the words 8xy0 to 8xy3 are LD Vx,Vy, OR, AND and XOR, which write their result, bit by bit, and no flag,
and change nothing else. (The numbers are general knowledge by the spec's own mark, GK2: notes/assumptions/9.md.) -/
def Obligations.CopyAndLogicWriteNoFlag : Prop :=
  ∀ (x y : Reg) (s : State),
    (decode (BitVec.ofNat 16 (0x8000 + x.val * 256 + y.val * 16)) = .ok (.ldReg x y) ∧
      ∃ t, exec (.ldReg x y) s = .next t ∧ WritesReg s t x (s.getV y)) ∧
    (decode (BitVec.ofNat 16 (0x8001 + x.val * 256 + y.val * 16)) = .ok (.orReg x y) ∧
      ∃ t r, exec (.orReg x y) s = .next t ∧ WritesReg s t x r ∧
        ∀ b, r.getLsbD b = ((s.getV x).getLsbD b || (s.getV y).getLsbD b)) ∧
    (decode (BitVec.ofNat 16 (0x8002 + x.val * 256 + y.val * 16)) = .ok (.andReg x y) ∧
      ∃ t r, exec (.andReg x y) s = .next t ∧ WritesReg s t x r ∧
        ∀ b, r.getLsbD b = ((s.getV x).getLsbD b && (s.getV y).getLsbD b)) ∧
    (decode (BitVec.ofNat 16 (0x8003 + x.val * 256 + y.val * 16)) = .ok (.xorReg x y) ∧
      ∃ t r, exec (.xorReg x y) s = .next t ∧ WritesReg s t x r ∧
        ∀ b, r.getLsbD b = ((s.getV x).getLsbD b ^^ (s.getV y).getLsbD b))

/-- R107 (for x = F the flag remains: the spec's decision D11): ADD Vx,Vy writes the low 8 bits of the 9-bit sum and the
carry. -/
def Obligations.AddSetsCarry : Prop :=
  ∀ (x y : Reg) (s : State),
    ∃ t, exec (.addReg x y) s = .next t ∧
      WritesRegAndFlag s t x (BitVec.ofNat 8 (((s.getV x).toNat + (s.getV y).toNat) % 256))
        ((s.getV x).toNat + (s.getV y).toNat ≥ 256)

/-- R108, R110 (for x = F: D11): SUB and SUBN write the difference modulo 256 and 1 in VF when there is no borrow. -/
def Obligations.SubtractionsSetNoBorrow : Prop :=
  ∀ (x y : Reg) (s : State),
    (∃ t, exec (.subReg x y) s = .next t ∧
      WritesRegAndFlag s t x (BitVec.ofNat 8 (((s.getV x).toNat + 256 - (s.getV y).toNat) % 256))
        ((s.getV x).toNat ≥ (s.getV y).toNat)) ∧
    (∃ t, exec (.subnReg x y) s = .next t ∧
      WritesRegAndFlag s t x (BitVec.ofNat 8 (((s.getV y).toNat + 256 - (s.getV x).toNat) % 256))
        ((s.getV y).toNat ≥ (s.getV x).toNat))

/-- R109, R111, R66 (for x = F: D11): SHR and SHL shift V[x] by one and write the bit shifted out to VF; y has no
effect. -/
def Obligations.ShiftsSetTheBitShiftedOut : Prop :=
  ∀ (x y : Reg) (s : State),
    (∃ t, exec (.shr x y) s = .next t ∧
      WritesRegAndFlag s t x (BitVec.ofNat 8 ((s.getV x).toNat / 2)) ((s.getV x).toNat % 2 = 1)) ∧
    (∃ t, exec (.shl x y) s = .next t ∧
      WritesRegAndFlag s t x (BitVec.ofNat 8 ((s.getV x).toNat * 2 % 256)) ((s.getV x).toNat / 128 = 1)) ∧
    ∀ y', exec (.shr x y') s = exec (.shr x y) s ∧ exec (.shl x y') s = exec (.shl x y) s

/-- R112, R167 (one byte also when nn = 0: the spec's decision D20): RND writes the mask of the next byte of P_RNG,
whatever that sequence is, takes exactly that byte, and changes nothing else. (P_RNG as a sequence, and `draws`, which
says which byte is next and that one was taken, are the model's own device: notes/assumptions/2.md, DESIGN CHOICE.) -/
def Obligations.RandomMasksTheNextByte : Prop :=
  ∀ (x : Reg) (nn : Byte) (s : State),
    ∃ t r, exec (.rnd x nn) s = .next t ∧
      (∀ k, t.getV k = if k = x then r else s.getV k) ∧
      (∀ b, r.getLsbD b = (nn.getLsbD b && (Config.randomSource s.draws).getLsbD b)) ∧
      t.draws = s.draws + 1 ∧ t.pc = s.pc + 2 ∧ { t with v := s.v, pc := s.pc, draws := s.draws } = s

/-! ### Index register and memory blocks -/

/-- R121: the word Annn is LD I,nnn, which writes nnn to I, whichever address it is, and changes nothing else. (The
number A is general knowledge by the spec's own mark, GK2: notes/assumptions/9.md.) -/
def Obligations.LoadIndexWritesTheAddress : Prop :=
  ∀ (nnn : Addr) (s : State),
    decode (BitVec.ofNat 16 (0xA000 + nnn.toNat)) = .ok (.ldI nnn) ∧
      ∃ t, exec (.ldI nnn) s = .next t ∧ t.i.toNat = nnn.toNat ∧ t.pc = s.pc + 2 ∧ { t with i := s.i, pc := s.pc } = s

/-- R122: ADD I,Vx writes the 16-bit sum to I and the carry out of bit 15 to VF (for x = F too, after VF was read). -/
def Obligations.AddIndexSetsCarry : Prop :=
  ∀ (x : Reg) (s : State),
    ∃ t, exec (.addI x) s = .next t ∧ t.i.toNat = (s.i.toNat + (s.getV x).toNat) % 65536 ∧
      (∀ k, t.getV k = if k = vF then (if s.i.toNat + (s.getV x).toNat ≥ 65536 then 1 else 0) else s.getV k) ∧
      t.pc = s.pc + 2 ∧ SameButRegsIndex s t

/-- R123 (no mask: the spec's decision D13): LD F,Vx points I at V[x] * 5 and changes nothing else. -/
def Obligations.LoadFontPointsAtTheGlyph : Prop :=
  ∀ (x : Reg) (s : State),
    ∃ t, exec (.ldFont x) s = .next t ∧ t.i.toNat = (s.getV x).toNat * 5 ∧ t.pc = s.pc + 2 ∧
      { t with i := s.i, pc := s.pc } = s

/-- R124 (I unchanged: the spec's decision D12; the check before any write: D7): LD B,Vx stores the hundreds, tens and
ones at I, I+1 and I+2, or faults when I + 2 passes 4095; every other byte and all other state stay. -/
def Obligations.BcdStoresTheThreeDigits : Prop :=
  ∀ (x : Reg) (s : State),
    (s.i.toNat + 2 > 0xFFF → exec (.ldBcd x) s = .fault .memoryOutOfBounds) ∧
    (s.i.toNat + 2 ≤ 0xFFF →
      ∃ t, exec (.ldBcd x) s = .next t ∧
        (Memory.read t.mem s.i.toNat).toNat = (s.getV x).toNat / 100 ∧
        (Memory.read t.mem (s.i.toNat + 1)).toNat = (s.getV x).toNat / 10 % 10 ∧
        (Memory.read t.mem (s.i.toNat + 2)).toNat = (s.getV x).toNat % 10 ∧
        (∀ a, ¬InRun s.i.toNat 3 a → Memory.read t.mem a = Memory.read s.mem a) ∧
        t.pc = s.pc + 2 ∧ SameButMemory s t)

/-- R125 (D12, D7): LD [I],Vx stores V0..Vx at I..I+x, or faults when I + x passes 4095; every other byte and all other
state stay. -/
def Obligations.StoreWritesRegistersInOrder : Prop :=
  ∀ (x : Reg) (s : State),
    (s.i.toNat + x.val > 0xFFF → exec (.store x) s = .fault .memoryOutOfBounds) ∧
    (s.i.toNat + x.val ≤ 0xFFF →
      ∃ t, exec (.store x) s = .next t ∧
        (∀ k : Reg, k ≤ x → Memory.read t.mem (s.i.toNat + k.val) = s.getV k) ∧
        (∀ a, ¬InRun s.i.toNat (x.val + 1) a → Memory.read t.mem a = Memory.read s.mem a) ∧
        t.pc = s.pc + 2 ∧ SameButMemory s t)

/-- R126 (D12, D7): LD Vx,[I] loads V0..Vx from I..I+x (VF as data), or faults when I + x passes 4095; every other
register and all other state, memory with it, stay. -/
def Obligations.LoadReadsRegistersInOrder : Prop :=
  ∀ (x : Reg) (s : State),
    (s.i.toNat + x.val > 0xFFF → exec (.load x) s = .fault .memoryOutOfBounds) ∧
    (s.i.toNat + x.val ≤ 0xFFF →
      ∃ t, exec (.load x) s = .next t ∧
        (∀ k, t.getV k = if k ≤ x then Memory.read s.mem (s.i.toNat + k.val) else s.getV k) ∧
        t.pc = s.pc + 2 ∧ SameButRegs s t)

/-- R125, R126: after LD [I],Vx completes, LD Vx,[I] in any state with that memory and that I restores V0..Vx. -/
def Obligations.StoreThenLoadRestoresRegisters : Prop :=
  ∀ (x : Reg) (s t u : State), exec (.store x) s = .next t → u.mem = t.mem → u.i = s.i →
    ∃ w, exec (.load x) u = .next w ∧ ∀ k : Reg, k ≤ x → w.getV k = s.getV k

/-- R53 (the spec's decision D26): a fetch right after LD [I],Vx sees the stored bytes, so a program can write its own
next instruction. -/
def Obligations.StoredBytesAreFetched : Prop :=
  ∀ (x k l : Reg) (s t u : State), exec (.store x) s = .next t → u.mem = t.mem → l.val = k.val + 1 → l ≤ x →
    u.pc.toNat = s.i.toNat + k.val → fetch u = .ok (wordOfBytes (s.getV k) (s.getV l))

/-! ### Display -/

/-- R131: the word 00E0 is CLS, which clears every pixel, sets dirty (on a clear screen
too: the spec's decision D18) and changes nothing else. -/
def Obligations.ClearScreenClearsEveryPixel : Prop :=
  decode 0x00E0 = .ok .cls ∧
    ∀ s : State, ∃ t, exec .cls s = .next t ∧ (∀ c r, pixel t.fb c r = false) ∧ t.dirty = true ∧ t.pc = s.pc + 2 ∧
      { t with fb := s.fb, dirty := s.dirty, pc := s.pc } = s

/-- R132 (D17: bit 7 leftmost; D18: n = 0 and dirty; D19: the check first): DRW flips exactly the pixels its sprite
covers, wrapping at both edges; VF is 1 exactly when a covered pixel was 1; dirty is set; nothing else changes. When the
sprite's bytes run past 4095 it faults. -/
def Obligations.DrawFlipsTheCoveredPixels : Prop :=
  ∀ (x y : Reg) (n : Count) (s : State),
    (n.val ≥ 1 → s.i.toNat + n.val - 1 > 0xFFF → exec (.drw x y n) s = .fault .memoryOutOfBounds) ∧
    (n.val = 0 ∨ s.i.toNat + n.val - 1 ≤ 0xFFF →
      ∃ t, exec (.drw x y n) s = .next t ∧
        (∀ (c : Fin 64) (r : Fin 32),
          (Covers s.mem s.i.toNat n.val (s.getV x).toNat (s.getV y).toNat c.val r.val →
            pixel t.fb c r = !pixel s.fb c r) ∧
          (¬Covers s.mem s.i.toNat n.val (s.getV x).toNat (s.getV y).toNat c.val r.val →
            pixel t.fb c r = pixel s.fb c r)) ∧
        (t.getV vF = 0 ∨ t.getV vF = 1) ∧
        (t.getV vF = 1 ↔ ∃ (c : Fin 64) (r : Fin 32), pixel s.fb c r = true ∧
          Covers s.mem s.i.toNat n.val (s.getV x).toNat (s.getV y).toNat c.val r.val) ∧
        (∀ k, k ≠ vF → t.getV k = s.getV k) ∧ t.dirty = true ∧ t.pc = s.pc + 2 ∧ SameButRegsScreen s t)

/-- R132, W9 of 95_test_vectors.md: the same sprite drawn again at the same place restores the framebuffer; the second
draw reports a collision exactly when a covered pixel was 0 before the first, so on a place that was clear exactly when
the sprite has a 1 bit. (R132's corner case says so of every place, which its pseudocode does not give:
notes/assumptions/18.md.) -/
def Obligations.DrawingTwiceRestoresTheScreen : Prop :=
  ∀ (x y : Reg) (n : Count) (s t u : State), exec (.drw x y n) s = .next t → u.fb = t.fb → u.mem = s.mem →
    u.i = s.i → u.getV x = s.getV x → u.getV y = s.getV y →
    ∃ w, exec (.drw x y n) u = .next w ∧ w.fb = s.fb ∧
      (w.getV vF = 1 ↔ ∃ (c : Fin 64) (r : Fin 32), pixel s.fb c r = false ∧
        Covers s.mem s.i.toNat n.val (s.getV x).toNat (s.getV y).toNat c.val r.val) ∧
      (t.getV vF = 0 →
        (w.getV vF = 1 ↔ ∃ row col, row < n.val ∧ col < 8 ∧ spriteBitAt s.mem s.i.toNat row col = true))

/-! ### Timers and keys -/

/-- R141 to R143: the timer loads copy between a register and a timer and change nothing else. -/
def Obligations.TimerLoadsCopy : Prop :=
  ∀ (x : Reg) (s : State),
    (∃ t, exec (.ldFromDT x) s = .next t ∧ WritesReg s t x s.dt) ∧
    (∃ t, exec (.ldDT x) s = .next t ∧ t.dt = s.getV x ∧ t.pc = s.pc + 2 ∧ { t with dt := s.dt, pc := s.pc } = s) ∧
    (∃ t, exec (.ldST x) s = .next t ∧ t.st = s.getV x ∧ t.pc = s.pc + 2 ∧ { t with st := s.st, pc := s.pc } = s)

/-- R144, R145 (a code of 16 or more names no key: the spec's decision D14): SKP skips when the key is pressed, SKNP when
it is not, and neither changes anything but pc. -/
def Obligations.KeySkipsReadTheKey : Prop :=
  ∀ (x : Reg) (s : State),
    (∀ k : Key, (s.getV x).toNat = k.val →
      (∃ t, exec (.skp x) s = .next t ∧ t.pc = (if s.keys[k] = true then s.pc + 4 else s.pc + 2) ∧ SameButPc s t) ∧
      (∃ t, exec (.sknp x) s = .next t ∧ t.pc = (if s.keys[k] = true then s.pc + 2 else s.pc + 4) ∧
        SameButPc s t)) ∧
    ((s.getV x).toNat ≥ 16 →
      (∃ t, exec (.skp x) s = .next t ∧ t.pc = s.pc + 2 ∧ SameButPc s t) ∧
      (∃ t, exec (.sknp x) s = .next t ∧ t.pc = s.pc + 4 ∧ SameButPc s t))

/-- R146 (pc advances on entry: the spec's decision D15): LD Vx,K enters AwaitingKey(x), with V[x] not yet written and a
held key ending nothing. -/
def Obligations.KeyWaitIsEntered : Prop :=
  ∀ (x : Reg) (s : State),
    ∃ t, exec (.ldKey x) s = .next t ∧ t.execState = .awaitingKey x ∧ t.pc = s.pc + 2 ∧
      { t with execState := s.execState, pc := s.pc } = s

/-- R147, R164 (a held key is no transition: the spec's decision D15): a key event writes its key; in AwaitingKey(x), a
released-to-pressed transition also writes the code to V[x] and resumes; nothing else changes. -/
def Obligations.KeyEventsResolveTheWait : Prop :=
  ∀ (s : State) (code : Key) (pressed : Bool),
    (∀ k : Key, (setKeyState code pressed s).keys[k] = if k = code then pressed else s.keys[k]) ∧
    (∀ x, s.execState = .awaitingKey x → pressed = true → s.keys[code] = false →
      (setKeyState code pressed s).execState = .running ∧
        (∀ k, ((setKeyState code pressed s).getV k).toNat = if k = x then code.val else (s.getV k).toNat) ∧
        { setKeyState code pressed s with v := s.v, keys := s.keys, execState := s.execState } = s) ∧
    (s.execState = .running ∨ pressed = false ∨ s.keys[code] = true →
      { setKeyState code pressed s with keys := s.keys } = s)

/-- R81, R171, R187 (D27): while no key is pressed, no sequence of operations ends the wait: exec, pc, V, I and the call
stack stay, and every operation but a load that does not fit is answered without a fault. -/
def Obligations.WaitHoldsUntilAKeyIsPressed : Prop :=
  ∀ (ops : List HostOp) (s : State) (x : Reg), s.execState = .awaitingKey x → (∀ op ∈ ops, op.presses = false) →
    (performAll ops s).2.execState = .awaitingKey x ∧ (performAll ops s).2.pc = s.pc ∧
      (performAll ops s).2.v = s.v ∧ (performAll ops s).2.i = s.i ∧ (performAll ops s).2.stack = s.stack ∧
      (performAll ops s).2.sp = s.sp ∧ ((∀ op ∈ ops, op.overloads = false) → SafeRun ops s)

/-! ### The host's operations -/

/-- R161: a tick lowers both timers by 1, floored at 0, in every state (the spec's decision D34), and changes nothing
else. -/
def Obligations.TickLowersBothTimers : Prop :=
  ∀ s : State, (perform .tickTimers s).1 = .nothing ∧
    (perform .tickTimers s).2.dt.toNat = s.dt.toNat - 1 ∧ (perform .tickTimers s).2.st.toNat = s.st.toNat - 1 ∧
    { (perform .tickTimers s).2 with dt := s.dt, st := s.st } = s

/-- R161: after k ticks a timer has counted down by k, and stays at 0. -/
def Obligations.TicksCountDownToZero : Prop :=
  ∀ (k : Nat) (s : State),
    (performAll (List.replicate k .tickTimers) s).2.dt.toNat = s.dt.toNat - k ∧
      (performAll (List.replicate k .tickTimers) s).2.st.toNat = s.st.toNat - k

/-- R162, R165, R166 (D30, D35): the snapshot and the sound level change nothing, and consume_dirty answers the dirty
flag and clears it. -/
def Obligations.DisplayAndSoundOperationsAnswer : Prop :=
  ∀ s : State, perform .framebufferSnapshot s = (.grid s.fb, s) ∧
    perform .soundOutput s = (.level (decide (s.st.toNat > 0)), s) ∧
    perform .consumeDirty s = (.dirty s.dirty, { s with dirty := false })

/-- R54, R55 (that a failed load writes nothing, and a load touches nothing but memory: the spec's decision D21):
load_program lays its bytes at 0x200 on, or answers ProgramTooLarge and changes nothing. -/
def Obligations.LoadProgramCopiesOrRefuses : Prop :=
  ∀ (bytes : List Byte) (s : State),
    (bytes.length > 3584 → perform (.loadProgram bytes) s = (.fault .programTooLarge, s)) ∧
    (bytes.length ≤ 3584 →
      (perform (.loadProgram bytes) s).1 = .ok ∧
        { (perform (.loadProgram bytes) s).2 with mem := s.mem } = s ∧
        (∀ (k : Nat) (h : k < bytes.length),
          Memory.read (perform (.loadProgram bytes) s).2.mem (0x200 + k) = bytes[k]) ∧
        ∀ a, ¬InRun 0x200 bytes.length a →
          Memory.read (perform (.loadProgram bytes) s).2.mem a = Memory.read s.mem a)

/-! ### Reset -/

/-- R25, R180: the registers after reset. pc = 0x200 is the source's; every other value is the spec's decision D2
(notes/assumptions/4.md). -/
def Obligations.ResetRegisters : Prop :=
  State.reset.pc.toNat = 0x200 ∧ (∀ k, State.reset.getV k = 0) ∧ State.reset.i = 0 ∧ State.reset.sp.val = 0 ∧
    (∀ j : Fin 16, State.reset.stack[j] = 0) ∧ State.reset.dt = 0 ∧ State.reset.st = 0 ∧
    (∀ c r, pixel State.reset.fb c r = false) ∧ State.reset.dirty = false ∧
    (∀ k : Key, State.reset.keys[k] = false) ∧ State.reset.execState = .running

/-- R25, R43, R44 (the glyph bytes are the spec's decision D3, the zeros its decision D37; notes/assumptions/4.md and
5.md): memory after reset holds the font at 000..04F and 0 elsewhere. -/
def Obligations.ResetMemoryHoldsTheFont : Prop :=
  (List.range 40).map (Memory.read State.reset.mem) =
      [0xF0, 0x90, 0x90, 0x90, 0xF0, 0x20, 0x60, 0x20, 0x20, 0x70, 0xF0, 0x10, 0xF0, 0x80, 0xF0, 0xF0, 0x10, 0xF0,
        0x10, 0xF0, 0x90, 0x90, 0xF0, 0x10, 0x10, 0xF0, 0x80, 0xF0, 0x10, 0xF0, 0xF0, 0x80, 0xF0, 0x90, 0xF0, 0xF0,
        0x10, 0x20, 0x40, 0x40] ∧
    ((List.range 40).map fun k => Memory.read State.reset.mem (40 + k)) =
      [0xF0, 0x90, 0xF0, 0x90, 0xF0, 0xF0, 0x90, 0xF0, 0x10, 0xF0, 0xF0, 0x90, 0xF0, 0x90, 0x90, 0xE0, 0x90, 0xE0,
        0x90, 0xE0, 0xF0, 0x80, 0x80, 0x80, 0xF0, 0xE0, 0x90, 0x90, 0x90, 0xE0, 0xF0, 0x80, 0xF0, 0x80, 0xF0, 0xF0,
        0x80, 0xF0, 0x80, 0x80] ∧
    ∀ a, 0x50 ≤ a → Memory.read State.reset.mem a = 0
end

