-- ==== Sys2Proof/Laws/Decode.lean ====
section
/-! SUPPORT. The fields of a packed word, one lemma per format and field, and the two bytes of a word. -/

namespace Sys2Proof

@[simp] theorem nibbleNumber_nibbleField (k : Fin 16) : nibbleNumber (nibbleField k) = k := rfl

@[simp] theorem nibbleField_nibbleNumber (f : BitVec 4) : nibbleField (nibbleNumber f) = f := rfl

@[simp] theorem fieldN3_packRegs (n3 : BitVec 4) (x y : Reg) (n : BitVec 4) :
    fieldN3 (packRegs n3 x y n) = n3 := by
  rw [fieldN3, packRegs, BitVec.extractLsb'_append_eq_of_le (by decide),
    BitVec.extractLsb'_append_eq_of_le (by decide), BitVec.extractLsb'_append_eq_of_le (by decide)]
  exact BitVec.extractLsb'_eq_self

@[simp] theorem fieldX_packRegs (n3 : BitVec 4) (x y : Reg) (n : BitVec 4) :
    fieldX (packRegs n3 x y n) = nibbleField x := by
  rw [fieldX, packRegs, BitVec.extractLsb'_append_eq_of_le (by decide),
    BitVec.extractLsb'_append_eq_of_le (by decide), BitVec.extractLsb'_append_eq_of_add_le (by decide)]
  exact BitVec.extractLsb'_eq_self

@[simp] theorem fieldY_packRegs (n3 : BitVec 4) (x y : Reg) (n : BitVec 4) :
    fieldY (packRegs n3 x y n) = nibbleField y := by
  rw [fieldY, packRegs, BitVec.extractLsb'_append_eq_of_le (by decide),
    BitVec.extractLsb'_append_eq_of_add_le (by decide)]
  exact BitVec.extractLsb'_eq_self

@[simp] theorem fieldN_packRegs (n3 : BitVec 4) (x y : Reg) (n : BitVec 4) :
    fieldN (packRegs n3 x y n) = n := by
  rw [fieldN, packRegs, BitVec.extractLsb'_append_eq_of_add_le (by decide)]
  exact BitVec.extractLsb'_eq_self

@[simp] theorem fieldN3_packByte (n3 : BitVec 4) (x : Reg) (nn : Byte) :
    fieldN3 (packByte n3 x nn) = n3 := by
  rw [fieldN3, packByte, BitVec.extractLsb'_append_eq_of_le (by decide),
    BitVec.extractLsb'_append_eq_of_le (by decide)]
  exact BitVec.extractLsb'_eq_self

@[simp] theorem fieldX_packByte (n3 : BitVec 4) (x : Reg) (nn : Byte) :
    fieldX (packByte n3 x nn) = nibbleField x := by
  rw [fieldX, packByte, BitVec.extractLsb'_append_eq_of_le (by decide),
    BitVec.extractLsb'_append_eq_of_add_le (by decide)]
  exact BitVec.extractLsb'_eq_self

@[simp] theorem fieldNN_packByte (n3 : BitVec 4) (x : Reg) (nn : Byte) :
    fieldNN (packByte n3 x nn) = nn := by
  rw [fieldNN, packByte, BitVec.extractLsb'_append_eq_of_add_le (by decide)]
  exact BitVec.extractLsb'_eq_self

@[simp] theorem fieldN3_packAddr (n3 : BitVec 4) (nnn : Addr) :
    fieldN3 (packAddr n3 nnn) = n3 := by
  rw [fieldN3, packAddr, BitVec.extractLsb'_append_eq_of_le (by decide)]
  exact BitVec.extractLsb'_eq_self

@[simp] theorem fieldNNN_packAddr (n3 : BitVec 4) (nnn : Addr) :
    fieldNNN (packAddr n3 nnn) = nnn := by
  rw [fieldNNN, packAddr, BitVec.extractLsb'_append_eq_of_add_le (by decide)]
  exact BitVec.extractLsb'_eq_self

/-- The two bytes of a word, put together, are the word (R46). -/
@[simp] theorem wordOfBytes_bytes (op : Word) : wordOfBytes (highByte op) (lowByte op) = op := by
  rw [wordOfBytes, highByte, lowByte, BitVec.extractLsb'_append_extractLsb'_eq_extractLsb' (by decide)]
  exact BitVec.extractLsb'_eq_self

end Sys2Proof
end

