-- ==== Sys2Proof/Laws/Display.lean ====
section
/-! SUPPORT. The pixels after one flip, one sprite bit and a clear. -/

namespace Sys2Proof.Machine

@[simp] theorem pixel_clearScreen (c : Fin 64) (r : Fin 32) : pixel clearScreen c r = false := by
  simp [pixel, clearScreen]

/-- A flip inverts its own pixel and no other (R132). -/
@[simp] theorem pixel_flipPixel (fb : Framebuffer) (c c' : Fin 64) (r r' : Fin 32) :
    pixel (flipPixel fb c r) c' r' = (pixel fb c' r' ^^ decide (c' = c ∧ r' = r)) := by
  by_cases hc : c' = c
  · subst hc
    by_cases hr : r' = r
    · subst hr; simp [pixel, flipPixel]
    · have : ¬r.val = r'.val := fun e => hr (Fin.ext e.symm)
      simp [pixel, flipPixel, hr, this]
  · have : ¬c.val = c'.val := fun e => hc (Fin.ext e.symm)
    simp [pixel, flipPixel, hc, this]

/-- A sprite bit flips its pixel when it is 1, and reports a collision when that pixel was 1 (R132). -/
theorem drawBit_eq (bit : Bool) (c : Fin 64) (r : Fin 32) (drawn : Framebuffer × Bool) :
    drawBit bit c r drawn =
      (if bit then flipPixel drawn.1 c r else drawn.1, drawn.2 || (bit && pixel drawn.1 c r)) := by
  cases bit <;> simp [drawBit]

/-- Two framebuffers with the same pixels are equal. -/
theorem Framebuffer.ext_pixel (f g : Framebuffer) (h : ∀ c r, pixel f c r = pixel g c r) : f = g := by
  apply Vector.ext
  intro c hc
  apply Vector.ext
  intro r hr
  exact h ⟨c, hc⟩ ⟨r, hr⟩

end Sys2Proof.Machine
end

