-- ==== Sys2Proof/Laws/Memory.lean ====
section
/-! SUPPORT. The laws of the byte memory: what a read gives after a write, and that every memory operation keeps the
canonical form. The read laws hold of every list of cells, canonical or not. -/

namespace Sys2Proof.Machine

@[simp] theorem Memory.read_nil (a : Nat) : Memory.read [] a = Memory.initByte a := rfl

theorem Memory.read_cons (c : Host.Cell) (m : Memory) (a : Nat) :
    Memory.read (c :: m) a = if c.1 = a then c.2 else Memory.read m a := rfl

theorem Memory.read_dropCell (m : Memory) (a b : Nat) :
    Memory.read (Memory.dropCell m a) b = if b = a then Memory.initByte a else Memory.read m b := by
  induction m with
  | nil => by_cases h : b = a <;> simp [Memory.dropCell, h]
  | cons c m ih =>
    rw [Memory.dropCell] at ih ⊢
    by_cases hc : c.1 = a
    · rw [List.filter_cons_of_neg (by simp [hc]), ih, Memory.read_cons]
      by_cases h : b = a
      · simp [h]
      · have : ¬a = b := fun e => h e.symm
        simp [h, hc, this]
    · rw [List.filter_cons_of_pos (by simp [hc]), Memory.read_cons, Memory.read_cons, ih]
      by_cases h : b = a
      · simp [h, hc]
      · simp [h]

/-- A cell put into a memory that lists no cell at its address is what that address reads as. -/
theorem Memory.read_putCell (m : Memory) (a b : Nat) (v : Byte) (h : ∀ c ∈ m, c.1 ≠ a) :
    Memory.read (Memory.putCell m a v) b = if b = a then v else Memory.read m b := by
  induction m with
  | nil =>
    by_cases e : b = a
    · simp [Memory.putCell, Memory.read_cons, e]
    · have : ¬a = b := fun e' => e e'.symm
      simp [Memory.putCell, Memory.read_cons, e, this]
  | cons c m ih =>
    have hc : c.1 ≠ a := h c (List.mem_cons_self ..)
    have ih := ih fun d hd => h d (List.mem_cons_of_mem _ hd)
    by_cases lt : a < c.1
    · rw [Memory.putCell, if_pos lt, Memory.read_cons]
      by_cases e : b = a
      · simp [e]
      · have : ¬a = b := fun e' => e e'.symm
        simp [e, this]
    · rw [Memory.putCell, if_neg lt, Memory.read_cons, ih, Memory.read_cons]
      by_cases e : b = a
      · simp [e, hc]
      · simp [e]

theorem Memory.dropCell_ne (m : Memory) (a : Nat) : ∀ c ∈ Memory.dropCell m a, c.1 ≠ a := by
  intro c hc
  simpa using (List.mem_filter.mp hc).2

/-- A read gives the byte of the latest write to its address, and no other address changes (R42, R51). -/
@[simp] theorem Memory.read_write (m : Memory) (a b : Nat) (v : Byte) :
    Memory.read (Memory.write m a v) b = if b = a then v else Memory.read m b := by
  rw [Memory.write]
  split
  · next h => rw [Memory.read_dropCell, h]
  · rw [Memory.read_putCell _ _ _ _ (Memory.dropCell_ne m a), Memory.read_dropCell]
    by_cases e : b = a <;> simp [e]

/-- Bytes written at ascending addresses lie there in order, and no other address changes (R47). -/
theorem Memory.read_writeRun (m : Memory) (a : Nat) (bytes : List Byte) (b : Nat) :
    Memory.read (Memory.writeRun m a bytes) b =
      if a ≤ b ∧ b < a + bytes.length then bytes.getD (b - a) 0 else Memory.read m b := by
  induction bytes generalizing m a with
  | nil => simp [Memory.writeRun]
  | cons v bs ih =>
    rw [Memory.writeRun, ih, Memory.read_write, List.length_cons]
    by_cases e : b = a
    · subst e; simp
    · by_cases h : a + 1 ≤ b ∧ b < a + 1 + bs.length
      · have h' : a ≤ b ∧ b < a + (bs.length + 1) := by omega
        rw [if_pos h, if_pos h', show b - a = (b - (a + 1)) + 1 by omega, List.getD_cons_succ]
      · have h' : ¬(a ≤ b ∧ b < a + (bs.length + 1)) := by omega
        rw [if_neg h, if_neg h', if_neg e]

/-! ### The canonical form -/

theorem Memory.wf_nil : Memory.wf [] = true := rfl

theorem Memory.wf_cons (c : Host.Cell) (m : Memory) :
    Memory.wf (c :: m) = true ↔
      c.1 < 4096 ∧ c.2 ≠ Memory.initByte c.1 ∧ (∀ d ∈ m, c.1 < d.1) ∧ Memory.wf m = true := by
  simp [Memory.wf, and_assoc]

theorem Memory.wf_dropCell (m : Memory) (a : Nat) (h : Memory.wf m = true) :
    Memory.wf (Memory.dropCell m a) = true := by
  induction m with
  | nil => rfl
  | cons c m ih =>
    obtain ⟨hlt, hne, hall, hwf⟩ := (Memory.wf_cons c m).mp h
    rw [Memory.dropCell] at ih ⊢
    by_cases hc : c.1 = a
    · rw [List.filter_cons_of_neg (by simp [hc])]
      exact ih hwf
    · rw [List.filter_cons_of_pos (by simp [hc])]
      exact (Memory.wf_cons _ _).mpr ⟨hlt, hne, fun d hd => hall d (List.mem_filter.mp hd).1, ih hwf⟩

theorem Memory.mem_putCell (m : Memory) (a : Nat) (v : Byte) (d : Host.Cell) :
    d ∈ Memory.putCell m a v ↔ d = (a, v) ∨ d ∈ m := by
  induction m with
  | nil => simp [Memory.putCell]
  | cons c m ih =>
    rw [Memory.putCell]
    split
    · simp
    · simp [ih, or_left_comm]

theorem Memory.wf_putCell (m : Memory) (a : Nat) (v : Byte) (h : Memory.wf m = true) (ha : a < 4096)
    (hv : v ≠ Memory.initByte a) (hm : ∀ c ∈ m, c.1 ≠ a) : Memory.wf (Memory.putCell m a v) = true := by
  induction m with
  | nil => exact (Memory.wf_cons _ _).mpr ⟨ha, hv, by simp, rfl⟩
  | cons c m ih =>
    obtain ⟨hlt, hne, hall, hwf⟩ := (Memory.wf_cons c m).mp h
    have hc : c.1 ≠ a := hm c (List.mem_cons_self ..)
    rw [Memory.putCell]
    split
    · next lt =>
      refine (Memory.wf_cons _ _).mpr ⟨ha, hv, ?_, h⟩
      intro d hd
      rcases List.mem_cons.mp hd with rfl | hd
      · exact lt
      · exact Nat.lt_trans lt (hall d hd)
    · next lt =>
      refine (Memory.wf_cons _ _).mpr ⟨hlt, hne, ?_, ih hwf fun d hd => hm d (List.mem_cons_of_mem _ hd)⟩
      intro d hd
      rcases (Memory.mem_putCell m a v d).mp hd with rfl | hd
      · show c.1 < a
        omega
      · exact hall d hd

/-- Writing a byte of memory keeps the canonical form. -/
theorem Memory.wf_write (m : Memory) (a : Nat) (v : Byte) (h : Memory.wf m = true) (ha : a < 4096) :
    Memory.wf (Memory.write m a v) = true := by
  rw [Memory.write]
  split
  · exact Memory.wf_dropCell m a h
  · next hv => exact Memory.wf_putCell _ a v (Memory.wf_dropCell m a h) ha hv (Memory.dropCell_ne m a)

/-- Writing a run of bytes inside memory keeps the canonical form. -/
theorem Memory.wf_writeRun (m : Memory) (a : Nat) (bytes : List Byte) (h : Memory.wf m = true)
    (ha : a + bytes.length ≤ 4096) : Memory.wf (Memory.writeRun m a bytes) = true := by
  induction bytes generalizing m a with
  | nil => exact h
  | cons v bs ih =>
    rw [List.length_cons] at ha
    exact ih (Memory.write m a v) (a + 1) (Memory.wf_write m a v h (by omega)) (by omega)

/-- Memory as constructed has the canonical form. -/
theorem Memory.wf_reset : Memory.wf State.reset.mem = true := rfl

end Sys2Proof.Machine
end

