-- ==== Sys2Proof/Laws/State.lean ====
section
/-! SUPPORT. One lemma per field per update of the state, each true by unfolding, so that no proof unfolds a record
update; and the value of a register after each update. -/

namespace Sys2Proof.Machine

variable (s : State)

/-! ### `State.setV` -/

@[simp] theorem State.setV_v (x : Reg) (b : Byte) : (s.setV x b).v = s.v.set x b := rfl
@[simp] theorem State.setV_i (x : Reg) (b : Byte) : (s.setV x b).i = s.i := rfl
@[simp] theorem State.setV_pc (x : Reg) (b : Byte) : (s.setV x b).pc = s.pc := rfl
@[simp] theorem State.setV_stack (x : Reg) (b : Byte) : (s.setV x b).stack = s.stack := rfl
@[simp] theorem State.setV_sp (x : Reg) (b : Byte) : (s.setV x b).sp = s.sp := rfl
@[simp] theorem State.setV_dt (x : Reg) (b : Byte) : (s.setV x b).dt = s.dt := rfl
@[simp] theorem State.setV_st (x : Reg) (b : Byte) : (s.setV x b).st = s.st := rfl
@[simp] theorem State.setV_fb (x : Reg) (b : Byte) : (s.setV x b).fb = s.fb := rfl
@[simp] theorem State.setV_dirty (x : Reg) (b : Byte) : (s.setV x b).dirty = s.dirty := rfl
@[simp] theorem State.setV_keys (x : Reg) (b : Byte) : (s.setV x b).keys = s.keys := rfl
@[simp] theorem State.setV_execState (x : Reg) (b : Byte) : (s.setV x b).execState = s.execState := rfl
@[simp] theorem State.setV_mem (x : Reg) (b : Byte) : (s.setV x b).mem = s.mem := rfl
@[simp] theorem State.setV_draws (x : Reg) (b : Byte) : (s.setV x b).draws = s.draws := rfl

/-! ### `State.setI` -/

@[simp] theorem State.setI_v (a : Word) : (s.setI a).v = s.v := rfl
@[simp] theorem State.setI_i (a : Word) : (s.setI a).i = a := rfl
@[simp] theorem State.setI_pc (a : Word) : (s.setI a).pc = s.pc := rfl
@[simp] theorem State.setI_stack (a : Word) : (s.setI a).stack = s.stack := rfl
@[simp] theorem State.setI_sp (a : Word) : (s.setI a).sp = s.sp := rfl
@[simp] theorem State.setI_dt (a : Word) : (s.setI a).dt = s.dt := rfl
@[simp] theorem State.setI_st (a : Word) : (s.setI a).st = s.st := rfl
@[simp] theorem State.setI_fb (a : Word) : (s.setI a).fb = s.fb := rfl
@[simp] theorem State.setI_dirty (a : Word) : (s.setI a).dirty = s.dirty := rfl
@[simp] theorem State.setI_keys (a : Word) : (s.setI a).keys = s.keys := rfl
@[simp] theorem State.setI_execState (a : Word) : (s.setI a).execState = s.execState := rfl
@[simp] theorem State.setI_mem (a : Word) : (s.setI a).mem = s.mem := rfl
@[simp] theorem State.setI_draws (a : Word) : (s.setI a).draws = s.draws := rfl

/-! ### `State.setPc` -/

@[simp] theorem State.setPc_v (a : Word) : (s.setPc a).v = s.v := rfl
@[simp] theorem State.setPc_i (a : Word) : (s.setPc a).i = s.i := rfl
@[simp] theorem State.setPc_pc (a : Word) : (s.setPc a).pc = a := rfl
@[simp] theorem State.setPc_stack (a : Word) : (s.setPc a).stack = s.stack := rfl
@[simp] theorem State.setPc_sp (a : Word) : (s.setPc a).sp = s.sp := rfl
@[simp] theorem State.setPc_dt (a : Word) : (s.setPc a).dt = s.dt := rfl
@[simp] theorem State.setPc_st (a : Word) : (s.setPc a).st = s.st := rfl
@[simp] theorem State.setPc_fb (a : Word) : (s.setPc a).fb = s.fb := rfl
@[simp] theorem State.setPc_dirty (a : Word) : (s.setPc a).dirty = s.dirty := rfl
@[simp] theorem State.setPc_keys (a : Word) : (s.setPc a).keys = s.keys := rfl
@[simp] theorem State.setPc_execState (a : Word) : (s.setPc a).execState = s.execState := rfl
@[simp] theorem State.setPc_mem (a : Word) : (s.setPc a).mem = s.mem := rfl
@[simp] theorem State.setPc_draws (a : Word) : (s.setPc a).draws = s.draws := rfl

/-! ### `State.setDT` -/

@[simp] theorem State.setDT_v (b : Byte) : (s.setDT b).v = s.v := rfl
@[simp] theorem State.setDT_i (b : Byte) : (s.setDT b).i = s.i := rfl
@[simp] theorem State.setDT_pc (b : Byte) : (s.setDT b).pc = s.pc := rfl
@[simp] theorem State.setDT_stack (b : Byte) : (s.setDT b).stack = s.stack := rfl
@[simp] theorem State.setDT_sp (b : Byte) : (s.setDT b).sp = s.sp := rfl
@[simp] theorem State.setDT_dt (b : Byte) : (s.setDT b).dt = b := rfl
@[simp] theorem State.setDT_st (b : Byte) : (s.setDT b).st = s.st := rfl
@[simp] theorem State.setDT_fb (b : Byte) : (s.setDT b).fb = s.fb := rfl
@[simp] theorem State.setDT_dirty (b : Byte) : (s.setDT b).dirty = s.dirty := rfl
@[simp] theorem State.setDT_keys (b : Byte) : (s.setDT b).keys = s.keys := rfl
@[simp] theorem State.setDT_execState (b : Byte) : (s.setDT b).execState = s.execState := rfl
@[simp] theorem State.setDT_mem (b : Byte) : (s.setDT b).mem = s.mem := rfl
@[simp] theorem State.setDT_draws (b : Byte) : (s.setDT b).draws = s.draws := rfl

/-! ### `State.setST` -/

@[simp] theorem State.setST_v (b : Byte) : (s.setST b).v = s.v := rfl
@[simp] theorem State.setST_i (b : Byte) : (s.setST b).i = s.i := rfl
@[simp] theorem State.setST_pc (b : Byte) : (s.setST b).pc = s.pc := rfl
@[simp] theorem State.setST_stack (b : Byte) : (s.setST b).stack = s.stack := rfl
@[simp] theorem State.setST_sp (b : Byte) : (s.setST b).sp = s.sp := rfl
@[simp] theorem State.setST_dt (b : Byte) : (s.setST b).dt = s.dt := rfl
@[simp] theorem State.setST_st (b : Byte) : (s.setST b).st = b := rfl
@[simp] theorem State.setST_fb (b : Byte) : (s.setST b).fb = s.fb := rfl
@[simp] theorem State.setST_dirty (b : Byte) : (s.setST b).dirty = s.dirty := rfl
@[simp] theorem State.setST_keys (b : Byte) : (s.setST b).keys = s.keys := rfl
@[simp] theorem State.setST_execState (b : Byte) : (s.setST b).execState = s.execState := rfl
@[simp] theorem State.setST_mem (b : Byte) : (s.setST b).mem = s.mem := rfl
@[simp] theorem State.setST_draws (b : Byte) : (s.setST b).draws = s.draws := rfl

/-! ### `State.paint` -/

@[simp] theorem State.paint_v (f : Framebuffer) : (s.paint f).v = s.v := rfl
@[simp] theorem State.paint_i (f : Framebuffer) : (s.paint f).i = s.i := rfl
@[simp] theorem State.paint_pc (f : Framebuffer) : (s.paint f).pc = s.pc := rfl
@[simp] theorem State.paint_stack (f : Framebuffer) : (s.paint f).stack = s.stack := rfl
@[simp] theorem State.paint_sp (f : Framebuffer) : (s.paint f).sp = s.sp := rfl
@[simp] theorem State.paint_dt (f : Framebuffer) : (s.paint f).dt = s.dt := rfl
@[simp] theorem State.paint_st (f : Framebuffer) : (s.paint f).st = s.st := rfl
@[simp] theorem State.paint_fb (f : Framebuffer) : (s.paint f).fb = f := rfl
@[simp] theorem State.paint_dirty (f : Framebuffer) : (s.paint f).dirty = true := rfl
@[simp] theorem State.paint_keys (f : Framebuffer) : (s.paint f).keys = s.keys := rfl
@[simp] theorem State.paint_execState (f : Framebuffer) : (s.paint f).execState = s.execState := rfl
@[simp] theorem State.paint_mem (f : Framebuffer) : (s.paint f).mem = s.mem := rfl
@[simp] theorem State.paint_draws (f : Framebuffer) : (s.paint f).draws = s.draws := rfl

/-! ### `State.clearDirty` -/

@[simp] theorem State.clearDirty_v : s.clearDirty.v = s.v := rfl
@[simp] theorem State.clearDirty_i : s.clearDirty.i = s.i := rfl
@[simp] theorem State.clearDirty_pc : s.clearDirty.pc = s.pc := rfl
@[simp] theorem State.clearDirty_stack : s.clearDirty.stack = s.stack := rfl
@[simp] theorem State.clearDirty_sp : s.clearDirty.sp = s.sp := rfl
@[simp] theorem State.clearDirty_dt : s.clearDirty.dt = s.dt := rfl
@[simp] theorem State.clearDirty_st : s.clearDirty.st = s.st := rfl
@[simp] theorem State.clearDirty_fb : s.clearDirty.fb = s.fb := rfl
@[simp] theorem State.clearDirty_dirty : s.clearDirty.dirty = false := rfl
@[simp] theorem State.clearDirty_keys : s.clearDirty.keys = s.keys := rfl
@[simp] theorem State.clearDirty_execState : s.clearDirty.execState = s.execState := rfl
@[simp] theorem State.clearDirty_mem : s.clearDirty.mem = s.mem := rfl
@[simp] theorem State.clearDirty_draws : s.clearDirty.draws = s.draws := rfl

/-! ### `State.setKey` -/

@[simp] theorem State.setKey_v (k : Key) (p : Bool) : (s.setKey k p).v = s.v := rfl
@[simp] theorem State.setKey_i (k : Key) (p : Bool) : (s.setKey k p).i = s.i := rfl
@[simp] theorem State.setKey_pc (k : Key) (p : Bool) : (s.setKey k p).pc = s.pc := rfl
@[simp] theorem State.setKey_stack (k : Key) (p : Bool) : (s.setKey k p).stack = s.stack := rfl
@[simp] theorem State.setKey_sp (k : Key) (p : Bool) : (s.setKey k p).sp = s.sp := rfl
@[simp] theorem State.setKey_dt (k : Key) (p : Bool) : (s.setKey k p).dt = s.dt := rfl
@[simp] theorem State.setKey_st (k : Key) (p : Bool) : (s.setKey k p).st = s.st := rfl
@[simp] theorem State.setKey_fb (k : Key) (p : Bool) : (s.setKey k p).fb = s.fb := rfl
@[simp] theorem State.setKey_dirty (k : Key) (p : Bool) : (s.setKey k p).dirty = s.dirty := rfl
@[simp] theorem State.setKey_keys (k : Key) (p : Bool) : (s.setKey k p).keys = s.keys.set k p := rfl
@[simp] theorem State.setKey_execState (k : Key) (p : Bool) : (s.setKey k p).execState = s.execState := rfl
@[simp] theorem State.setKey_mem (k : Key) (p : Bool) : (s.setKey k p).mem = s.mem := rfl
@[simp] theorem State.setKey_draws (k : Key) (p : Bool) : (s.setKey k p).draws = s.draws := rfl

/-! ### `State.setExec` -/

@[simp] theorem State.setExec_v (e : ExecState) : (s.setExec e).v = s.v := rfl
@[simp] theorem State.setExec_i (e : ExecState) : (s.setExec e).i = s.i := rfl
@[simp] theorem State.setExec_pc (e : ExecState) : (s.setExec e).pc = s.pc := rfl
@[simp] theorem State.setExec_stack (e : ExecState) : (s.setExec e).stack = s.stack := rfl
@[simp] theorem State.setExec_sp (e : ExecState) : (s.setExec e).sp = s.sp := rfl
@[simp] theorem State.setExec_dt (e : ExecState) : (s.setExec e).dt = s.dt := rfl
@[simp] theorem State.setExec_st (e : ExecState) : (s.setExec e).st = s.st := rfl
@[simp] theorem State.setExec_fb (e : ExecState) : (s.setExec e).fb = s.fb := rfl
@[simp] theorem State.setExec_dirty (e : ExecState) : (s.setExec e).dirty = s.dirty := rfl
@[simp] theorem State.setExec_keys (e : ExecState) : (s.setExec e).keys = s.keys := rfl
@[simp] theorem State.setExec_execState (e : ExecState) : (s.setExec e).execState = e := rfl
@[simp] theorem State.setExec_mem (e : ExecState) : (s.setExec e).mem = s.mem := rfl
@[simp] theorem State.setExec_draws (e : ExecState) : (s.setExec e).draws = s.draws := rfl

/-! ### `State.setMem` -/

@[simp] theorem State.setMem_v (m : Memory) : (s.setMem m).v = s.v := rfl
@[simp] theorem State.setMem_i (m : Memory) : (s.setMem m).i = s.i := rfl
@[simp] theorem State.setMem_pc (m : Memory) : (s.setMem m).pc = s.pc := rfl
@[simp] theorem State.setMem_stack (m : Memory) : (s.setMem m).stack = s.stack := rfl
@[simp] theorem State.setMem_sp (m : Memory) : (s.setMem m).sp = s.sp := rfl
@[simp] theorem State.setMem_dt (m : Memory) : (s.setMem m).dt = s.dt := rfl
@[simp] theorem State.setMem_st (m : Memory) : (s.setMem m).st = s.st := rfl
@[simp] theorem State.setMem_fb (m : Memory) : (s.setMem m).fb = s.fb := rfl
@[simp] theorem State.setMem_dirty (m : Memory) : (s.setMem m).dirty = s.dirty := rfl
@[simp] theorem State.setMem_keys (m : Memory) : (s.setMem m).keys = s.keys := rfl
@[simp] theorem State.setMem_execState (m : Memory) : (s.setMem m).execState = s.execState := rfl
@[simp] theorem State.setMem_mem (m : Memory) : (s.setMem m).mem = m := rfl
@[simp] theorem State.setMem_draws (m : Memory) : (s.setMem m).draws = s.draws := rfl

/-! ### `State.advance` -/

@[simp] theorem State.advance_v : s.advance.v = s.v := rfl
@[simp] theorem State.advance_i : s.advance.i = s.i := rfl
@[simp] theorem State.advance_pc : s.advance.pc = s.pc + 2 := rfl
@[simp] theorem State.advance_stack : s.advance.stack = s.stack := rfl
@[simp] theorem State.advance_sp : s.advance.sp = s.sp := rfl
@[simp] theorem State.advance_dt : s.advance.dt = s.dt := rfl
@[simp] theorem State.advance_st : s.advance.st = s.st := rfl
@[simp] theorem State.advance_fb : s.advance.fb = s.fb := rfl
@[simp] theorem State.advance_dirty : s.advance.dirty = s.dirty := rfl
@[simp] theorem State.advance_keys : s.advance.keys = s.keys := rfl
@[simp] theorem State.advance_execState : s.advance.execState = s.execState := rfl
@[simp] theorem State.advance_mem : s.advance.mem = s.mem := rfl
@[simp] theorem State.advance_draws : s.advance.draws = s.draws := rfl

/-! ### `State.skipIf` -/

@[simp] theorem State.skipIf_v (c : Bool) : (s.skipIf c).v = s.v := rfl
@[simp] theorem State.skipIf_i (c : Bool) : (s.skipIf c).i = s.i := rfl
@[simp] theorem State.skipIf_pc (c : Bool) : (s.skipIf c).pc = if c then s.pc + 4 else s.pc + 2 := rfl
@[simp] theorem State.skipIf_stack (c : Bool) : (s.skipIf c).stack = s.stack := rfl
@[simp] theorem State.skipIf_sp (c : Bool) : (s.skipIf c).sp = s.sp := rfl
@[simp] theorem State.skipIf_dt (c : Bool) : (s.skipIf c).dt = s.dt := rfl
@[simp] theorem State.skipIf_st (c : Bool) : (s.skipIf c).st = s.st := rfl
@[simp] theorem State.skipIf_fb (c : Bool) : (s.skipIf c).fb = s.fb := rfl
@[simp] theorem State.skipIf_dirty (c : Bool) : (s.skipIf c).dirty = s.dirty := rfl
@[simp] theorem State.skipIf_keys (c : Bool) : (s.skipIf c).keys = s.keys := rfl
@[simp] theorem State.skipIf_execState (c : Bool) : (s.skipIf c).execState = s.execState := rfl
@[simp] theorem State.skipIf_mem (c : Bool) : (s.skipIf c).mem = s.mem := rfl
@[simp] theorem State.skipIf_draws (c : Bool) : (s.skipIf c).draws = s.draws := rfl

/-! ### `State.setFlag` -/

@[simp] theorem State.setFlag_v (c : Bool) : (s.setFlag c).v = s.v.set vF (if c then 1 else 0) := rfl
@[simp] theorem State.setFlag_i (c : Bool) : (s.setFlag c).i = s.i := rfl
@[simp] theorem State.setFlag_pc (c : Bool) : (s.setFlag c).pc = s.pc := rfl
@[simp] theorem State.setFlag_stack (c : Bool) : (s.setFlag c).stack = s.stack := rfl
@[simp] theorem State.setFlag_sp (c : Bool) : (s.setFlag c).sp = s.sp := rfl
@[simp] theorem State.setFlag_dt (c : Bool) : (s.setFlag c).dt = s.dt := rfl
@[simp] theorem State.setFlag_st (c : Bool) : (s.setFlag c).st = s.st := rfl
@[simp] theorem State.setFlag_fb (c : Bool) : (s.setFlag c).fb = s.fb := rfl
@[simp] theorem State.setFlag_dirty (c : Bool) : (s.setFlag c).dirty = s.dirty := rfl
@[simp] theorem State.setFlag_keys (c : Bool) : (s.setFlag c).keys = s.keys := rfl
@[simp] theorem State.setFlag_execState (c : Bool) : (s.setFlag c).execState = s.execState := rfl
@[simp] theorem State.setFlag_mem (c : Bool) : (s.setFlag c).mem = s.mem := rfl
@[simp] theorem State.setFlag_draws (c : Bool) : (s.setFlag c).draws = s.draws := rfl

/-! ### `State.setResultAndFlag` -/

@[simp] theorem State.setResultAndFlag_v (x : Reg) (b : Byte) (c : Bool) : (s.setResultAndFlag x b c).v = (s.v.set x b).set vF (if c then 1 else 0) := rfl
@[simp] theorem State.setResultAndFlag_i (x : Reg) (b : Byte) (c : Bool) : (s.setResultAndFlag x b c).i = s.i := rfl
@[simp] theorem State.setResultAndFlag_pc (x : Reg) (b : Byte) (c : Bool) : (s.setResultAndFlag x b c).pc = s.pc := rfl
@[simp] theorem State.setResultAndFlag_stack (x : Reg) (b : Byte) (c : Bool) : (s.setResultAndFlag x b c).stack = s.stack := rfl
@[simp] theorem State.setResultAndFlag_sp (x : Reg) (b : Byte) (c : Bool) : (s.setResultAndFlag x b c).sp = s.sp := rfl
@[simp] theorem State.setResultAndFlag_dt (x : Reg) (b : Byte) (c : Bool) : (s.setResultAndFlag x b c).dt = s.dt := rfl
@[simp] theorem State.setResultAndFlag_st (x : Reg) (b : Byte) (c : Bool) : (s.setResultAndFlag x b c).st = s.st := rfl
@[simp] theorem State.setResultAndFlag_fb (x : Reg) (b : Byte) (c : Bool) : (s.setResultAndFlag x b c).fb = s.fb := rfl
@[simp] theorem State.setResultAndFlag_dirty (x : Reg) (b : Byte) (c : Bool) : (s.setResultAndFlag x b c).dirty = s.dirty := rfl
@[simp] theorem State.setResultAndFlag_keys (x : Reg) (b : Byte) (c : Bool) : (s.setResultAndFlag x b c).keys = s.keys := rfl
@[simp] theorem State.setResultAndFlag_execState (x : Reg) (b : Byte) (c : Bool) : (s.setResultAndFlag x b c).execState = s.execState := rfl
@[simp] theorem State.setResultAndFlag_mem (x : Reg) (b : Byte) (c : Bool) : (s.setResultAndFlag x b c).mem = s.mem := rfl
@[simp] theorem State.setResultAndFlag_draws (x : Reg) (b : Byte) (c : Bool) : (s.setResultAndFlag x b c).draws = s.draws := rfl

/-! ### The value of a register -/

theorem State.getV_eq (x : Reg) : s.getV x = s.v[x] := rfl

@[simp] theorem State.getV_setV (x k : Reg) (b : Byte) : (s.setV x b).getV k = if k = x then b else s.getV k := by
  by_cases h : k = x
  · subst h; simp [State.getV, State.setV]
  · simp [State.getV, State.setV, h, Fin.val_inj, Ne.symm h]

@[simp] theorem State.getV_setFlag (c : Bool) (k : Reg) :
    (s.setFlag c).getV k = if k = vF then (if c then 1 else 0) else s.getV k := by
  simp only [State.setFlag, State.getV_setV]

/-- For x = F the flag is what remains (R100). -/
@[simp] theorem State.getV_setResultAndFlag (x k : Reg) (b : Byte) (c : Bool) :
    (s.setResultAndFlag x b c).getV k =
      if k = vF then (if c then 1 else 0) else if k = x then b else s.getV k := by
  simp only [State.setResultAndFlag, State.getV_setFlag, State.getV_setV]

@[simp] theorem State.getV_setI (a : Word) (x : Reg) : (s.setI a).getV x = s.getV x := rfl
@[simp] theorem State.getV_setPc (a : Word) (x : Reg) : (s.setPc a).getV x = s.getV x := rfl
@[simp] theorem State.getV_setDT (b : Byte) (x : Reg) : (s.setDT b).getV x = s.getV x := rfl
@[simp] theorem State.getV_setST (b : Byte) (x : Reg) : (s.setST b).getV x = s.getV x := rfl
@[simp] theorem State.getV_paint (f : Framebuffer) (x : Reg) : (s.paint f).getV x = s.getV x := rfl
@[simp] theorem State.getV_clearDirty (x : Reg) : s.clearDirty.getV x = s.getV x := rfl
@[simp] theorem State.getV_setKey (k : Key) (p : Bool) (x : Reg) : (s.setKey k p).getV x = s.getV x := rfl
@[simp] theorem State.getV_setExec (e : ExecState) (x : Reg) : (s.setExec e).getV x = s.getV x := rfl
@[simp] theorem State.getV_setMem (m : Memory) (x : Reg) : (s.setMem m).getV x = s.getV x := rfl
@[simp] theorem State.getV_advance (x : Reg) : s.advance.getV x = s.getV x := rfl
@[simp] theorem State.getV_skipIf (c : Bool) (x : Reg) : (s.skipIf c).getV x = s.getV x := rfl

/-- Two register files that read the same at every number are equal. -/
theorem State.v_ext (t : State) (h : ∀ x, s.getV x = t.getV x) : s.v = t.v := by
  apply Vector.ext
  intro k hk
  exact h ⟨k, hk⟩

end Sys2Proof.Machine
end

