-- ==== Sys2Proof/Laws/Ops.lean ====
section
/-! SUPPORT. One lemma for each shared operation, saying everything it can do: the checked memory accesses, the call
stack, the draw of a random byte, and the delivery of a result. -/

namespace Sys2Proof.Machine

@[simp] theorem deliver_ok (s : State) : deliver (.ok s) = .next s := rfl
@[simp] theorem deliver_error (f : Fault) : deliver (.error f) = .fault f := rfl

/-- A delivered result is a next state exactly when the body committed that state. -/
theorem deliver_eq_next (r : Except Fault State) (t : State) : deliver r = .next t ↔ r = .ok t := by
  cases r <;> simp [deliver, raise]

/-- A delivered result is a fault exactly when the body raised it. -/
theorem deliver_eq_fault (r : Except Fault State) (f : Fault) : deliver r = .fault f ↔ r = .error f := by
  cases r <;> simp [deliver, raise]

/-- No body delivers a refusal. -/
theorem deliver_ne_refused (r : Except Fault State) (e : Refusal) : deliver r ≠ .refused e := by
  cases r <;> simp [deliver, raise]

theorem inRange_iff (a : Nat) : inRange a = true ↔ a < 4096 := by
  rw [inRange, decide_eq_true_iff, Config.addrMax]; omega

theorem rangeOk_iff (a len : Nat) : rangeOk a len = true ↔ len = 0 ∨ a + len ≤ 4096 := by
  rw [rangeOk, Bool.or_eq_true, beq_iff_eq, inRange_iff]; omega

theorem memRead_ok (s : State) (a : Nat) (h : a < 4096) : memRead s a = .ok (Memory.read s.mem a) := by
  rw [memRead, if_pos ((inRange_iff a).mpr h)]

theorem memWrite_ok (s : State) (a : Nat) (v : Byte) (h : a < 4096) :
    memWrite s a v = .ok (s.setMem (Memory.write s.mem a v)) := by
  rw [memWrite, if_pos ((inRange_iff a).mpr h)]

theorem readBytes_ok (s : State) (a len : Nat) (h : a + len ≤ 4096 ∨ len = 0) :
    readBytes s a len = .ok ((List.range len).map fun k => Memory.read s.mem (a + k)) := by
  induction len generalizing a with
  | zero => rfl
  | succ len ih =>
    rw [readBytes, memRead_ok s a (by omega), ih (a + 1) (by omega), List.range_succ_eq_map]
    simp [bind, Except.bind, Function.comp_def, Nat.add_comm, Nat.add_left_comm]

theorem writeBytes_ok (s : State) (a : Nat) (bytes : List Byte) (h : a + bytes.length ≤ 4096 ∨ bytes.length = 0) :
    writeBytes s a bytes = .ok (s.setMem (Memory.writeRun s.mem a bytes)) := by
  induction bytes generalizing s a with
  | nil => rfl
  | cons b bs ih =>
    rw [List.length_cons] at h
    rw [writeBytes, memWrite_ok s a b (by omega)]
    exact ih _ _ (by omega)

/-- A range read answers the bytes of the range, in order, or MemoryOutOfBounds (R49). -/
theorem readRange_eq (s : State) (a len : Nat) :
    readRange s a len =
      if len = 0 ∨ a + len ≤ 4096 then .ok ((List.range len).map fun k => Memory.read s.mem (a + k))
      else .error .memoryOutOfBounds := by
  rw [readRange]
  by_cases h : len = 0 ∨ a + len ≤ 4096
  · rw [if_pos ((rangeOk_iff a len).mpr h), if_pos h, readBytes_ok s a len h.symm]
  · rw [if_neg (fun e => h ((rangeOk_iff a len).mp e)), if_neg h]

/-- A range write stores every byte of the range, or MemoryOutOfBounds and none (R49). -/
theorem writeRange_eq (s : State) (a : Nat) (bytes : List Byte) :
    writeRange s a bytes =
      if bytes.length = 0 ∨ a + bytes.length ≤ 4096 then .ok (s.setMem (Memory.writeRun s.mem a bytes))
      else .error .memoryOutOfBounds := by
  rw [writeRange]
  by_cases h : bytes.length = 0 ∨ a + bytes.length ≤ 4096
  · rw [if_pos ((rangeOk_iff a _).mpr h), if_pos h, writeBytes_ok s a bytes h.symm]
  · rw [if_neg (fun e => h ((rangeOk_iff a _).mp e)), if_neg h]

/-- A push with a free entry writes that entry and counts one frame more; nothing else changes (R94). -/
theorem pushFrame_ok (s : State) (a : Word) (h : s.sp.val < 16) :
    pushFrame s a =
      .ok { s with stack := s.stack.set s.sp.val a h, sp := ⟨s.sp.val + 1, Nat.succ_lt_succ h⟩ } := by
  simp [pushFrame, h]

/-- A push with 16 frames active overflows (R94). -/
theorem pushFrame_full (s : State) (a : Word) (h : s.sp.val = 16) : pushFrame s a = .error .stackOverflow := by
  simp [pushFrame, h]

/-- A pop with a frame active answers the latest return address and counts one frame less; nothing else changes (R92). -/
theorem popFrame_ok (s : State) (h : s.sp.val ≠ 0) :
    popFrame s = .ok (s.stack[s.sp.val - 1]'(by omega), { s with sp := ⟨s.sp.val - 1, by omega⟩ }) := by
  simp [popFrame, h]

/-- A pop with no frame active underflows (R92). -/
theorem popFrame_empty (s : State) (h : s.sp.val = 0) : popFrame s = .error .stackUnderflow := by
  simp [popFrame, h]

/-- A draw takes the next byte of P_RNG and counts it; nothing else changes (R167). -/
theorem randomByte_eq (s : State) :
    randomByte s = (Config.randomSource s.draws, { s with draws := s.draws + 1 }) := rfl

end Sys2Proof.Machine
end

