-- ==== Sys2Proof/Laws/HostOps.lean ====
section
/-! SUPPORT. One lemma for each operation of the host, saying everything it can do. -/

namespace Sys2Proof.Machine

/-- A tick lowers a timer by one and leaves 0 as it is (R161). -/
theorem countDown_toNat (b : Byte) : (countDown b).toNat = b.toNat - 1 := by
  rw [countDown]
  have := b.isLt
  split
  · next h =>
    rw [BitVec.toNat_sub_of_le (by rw [BitVec.le_def]; exact h)]
    simp
  · omega

/-- A tick changes the two timers and nothing else (R161). -/
theorem tickTimers_eq (s : State) : tickTimers s = { s with dt := countDown s.dt, st := countDown s.st } := rfl

/-- A key event in a Running state writes the key and nothing else (R164). -/
theorem setKeyState_running (s : State) (code : Key) (p : Bool) (h : s.execState = .running) :
    setKeyState code p s = s.setKey code p := by
  simp [setKeyState, resolveWait, h]

/-- A released-to-pressed transition in AwaitingKey(x) writes the code to V[x] and resumes (R147). -/
theorem setKeyState_press (s : State) (code : Key) (x : Reg) (h : s.execState = .awaitingKey x)
    (hk : s.keys[code] = false) :
    setKeyState code true s = ((s.setKey code true).setV x (BitVec.ofNat 8 code.val)).setExec .running := by
  simp only [setKeyState, resolveWait, State.setKey_execState, h]
  rw [hk]
  rfl

/-- A release, or a press of a key already held, leaves the wait in place (R147). -/
theorem setKeyState_noPress (s : State) (code : Key) (p : Bool) (h : p = false ∨ s.keys[code] = true) :
    setKeyState code p s = s.setKey code p := by
  have hc : (p && !s.keys[code]) = false := by rcases h with h | h <;> rw [h] <;> simp
  simp only [setKeyState, resolveWait]
  split
  · rfl
  · rw [hc]; rfl

/-- A load of at most 3584 bytes writes them from 0x200 on and changes nothing else (R54). -/
theorem loadProgram_ok (bytes : List Byte) (s : State) (h : bytes.length ≤ 3584) :
    loadProgram bytes s = .ok (s.setMem (Memory.writeRun s.mem 0x200 bytes)) := by
  rw [loadProgram, if_neg (by simpa using h)]

/-- A longer load is turned away (R54). -/
theorem loadProgram_tooLarge (bytes : List Byte) (s : State) (h : 3584 < bytes.length) :
    loadProgram bytes s = .error .programTooLarge := by
  rw [loadProgram, if_pos (by simpa using h)]

end Sys2Proof.Machine
end

