-- ==== Sys2Proof/Laws/Operands.lean ====
section
/-! SUPPORT. One lemma for each operand form, in terms of the numbers the spec computes with. -/

namespace Sys2Proof.Machine

/-- The address operand is `nnn`, zero-extended (R61). -/
@[simp] theorem addrOperand_toNat (nnn : Addr) : (addrOperand nnn).toNat = nnn.toNat := by
  have := nnn.isLt
  simp [addrOperand]
  omega

@[simp] theorem offsetOperand_toNat (s : State) (x : Reg) : (offsetOperand s x).toNat = (s.getV x).toNat := by
  have := (s.getV x).isLt
  simp [offsetOperand]
  omega

/-- The glyph address is five times the register's value, never reduced (R123). -/
theorem glyphAddress_toNat (b : Byte) : (glyphAddress b).toNat = b.toNat * 5 := by
  have := b.isLt
  simp [glyphAddress]
  omega

/-- A code of 16 or more names no key (R144). -/
theorem keyPressed_of_ge (s : State) (x : Reg) (h : 16 ≤ (s.getV x).toNat) : keyPressed s x = false := by
  rw [keyPressed, dif_neg (by omega)]

/-- A code below 16 reads its key (R144). -/
theorem keyPressed_of_lt (s : State) (x : Reg) (h : (s.getV x).toNat < 16) :
    keyPressed s x = s.keys[(s.getV x).toNat] := by
  rw [keyPressed, dif_pos h]

@[simp] theorem decimalDigits_length (b : Byte) : (decimalDigits b).length = 3 := rfl

@[simp] theorem registersTo_length (s : State) (x : Reg) : (registersTo s x).length = x.val + 1 := by
  simp [registersTo]

/-- The k-th of the bytes of V0..Vx is V[k] (R125). -/
theorem registersTo_getD (s : State) (x : Reg) (k : Nat) (h : k ≤ x.val) :
    (registersTo s x).getD k 0 = s.getV ⟨k, by omega⟩ := by
  have hk : k < x.val + 1 := by omega
  simp [registersTo, List.getD_eq_getElem?_getD, hk, State.getV]

/-- Loading a list of bytes writes register k + j with byte j and leaves every other register (R126). -/
theorem getV_loadRegisters (s : State) (k : Nat) (bytes : List Byte) (x : Reg) :
    (loadRegisters s k bytes).getV x =
      if k ≤ x.val ∧ x.val < k + bytes.length then bytes.getD (x.val - k) 0 else s.getV x := by
  induction bytes generalizing s k with
  | nil => simp [loadRegisters]
  | cons b bs ih =>
    rw [loadRegisters, ih, List.length_cons]
    by_cases h : k + 1 ≤ x.val ∧ x.val < k + 1 + bs.length
    · rw [if_pos h, if_pos (by omega), show x.val - k = (x.val - (k + 1)) + 1 by omega, List.getD_cons_succ]
    · rw [if_neg h]
      by_cases e : x.val = k
      · have hk : k < 16 := by omega
        have ex : x = ⟨k, hk⟩ := Fin.ext e
        subst ex
        simp [hk]
      · rw [if_neg (by omega)]
        split
        · next hk =>
          have ne : x ≠ ⟨k, hk⟩ := fun e' => e (congrArg Fin.val e')
          simp [ne]
        · rfl

/-- Loading a list of bytes changes no state but the registers. -/
theorem loadRegisters_eq (s : State) (k : Nat) (bytes : List Byte) :
    loadRegisters s k bytes = { s with v := (loadRegisters s k bytes).v } := by
  induction bytes generalizing s k with
  | nil => rfl
  | cons b bs ih =>
    rw [loadRegisters]
    split
    · next h => exact ih (s.setV ⟨k, h⟩ b) (k + 1)
    · exact ih s (k + 1)

@[simp] theorem loadRegisters_i (s : State) (k : Nat) (bytes : List Byte) :
    (loadRegisters s k bytes).i = s.i := by rw [loadRegisters_eq]
@[simp] theorem loadRegisters_pc (s : State) (k : Nat) (bytes : List Byte) :
    (loadRegisters s k bytes).pc = s.pc := by rw [loadRegisters_eq]
@[simp] theorem loadRegisters_stack (s : State) (k : Nat) (bytes : List Byte) :
    (loadRegisters s k bytes).stack = s.stack := by rw [loadRegisters_eq]
@[simp] theorem loadRegisters_sp (s : State) (k : Nat) (bytes : List Byte) :
    (loadRegisters s k bytes).sp = s.sp := by rw [loadRegisters_eq]
@[simp] theorem loadRegisters_dt (s : State) (k : Nat) (bytes : List Byte) :
    (loadRegisters s k bytes).dt = s.dt := by rw [loadRegisters_eq]
@[simp] theorem loadRegisters_st (s : State) (k : Nat) (bytes : List Byte) :
    (loadRegisters s k bytes).st = s.st := by rw [loadRegisters_eq]
@[simp] theorem loadRegisters_fb (s : State) (k : Nat) (bytes : List Byte) :
    (loadRegisters s k bytes).fb = s.fb := by rw [loadRegisters_eq]
@[simp] theorem loadRegisters_dirty (s : State) (k : Nat) (bytes : List Byte) :
    (loadRegisters s k bytes).dirty = s.dirty := by rw [loadRegisters_eq]
@[simp] theorem loadRegisters_keys (s : State) (k : Nat) (bytes : List Byte) :
    (loadRegisters s k bytes).keys = s.keys := by rw [loadRegisters_eq]
@[simp] theorem loadRegisters_execState (s : State) (k : Nat) (bytes : List Byte) :
    (loadRegisters s k bytes).execState = s.execState := by rw [loadRegisters_eq]
@[simp] theorem loadRegisters_mem (s : State) (k : Nat) (bytes : List Byte) :
    (loadRegisters s k bytes).mem = s.mem := by rw [loadRegisters_eq]
@[simp] theorem loadRegisters_draws (s : State) (k : Nat) (bytes : List Byte) :
    (loadRegisters s k bytes).draws = s.draws := by rw [loadRegisters_eq]

end Sys2Proof.Machine
end

