-- ==== Sys2Proof/Laws/PerInstr.lean ====
section
/-! SUPPORT. The statements made per instruction. `TableRow`: the word of a well-formed instruction belongs to the row of
the opcode map that its constructor stands for (R63). -/

namespace Sys2Proof.Laws.TableRow

/-- The word of the instruction has the fixed bits of its row: `op & mask = match` (R63). -/
def Statement (i : Instr) : Prop := WellFormed i → (opcodeRow i).holds (encode i) = true

theorem packAddr_mask (n3 : BitVec 4) (nnn : Addr) :
    packAddr n3 nnn &&& 0xF000#16 = packAddr n3 0 := by
  rw [show 0xF000#16 = 0xF#4 ++ 0#12 from rfl, packAddr]
  refine BitVec.and_append.trans ?_
  rw [show (0xF#4) = BitVec.allOnes 4 from rfl, BitVec.and_allOnes, BitVec.and_zero]
  rfl

theorem packByte_mask (n3 : BitVec 4) (x : Reg) (nn : Byte) :
    packByte n3 x nn &&& 0xF000#16 = packByte n3 0 0 := by
  rw [show 0xF000#16 = (0xF#4 ++ 0#4) ++ 0#8 from rfl, packByte]
  refine BitVec.and_append.trans ?_
  rw [BitVec.and_append, show (0xF#4) = BitVec.allOnes 4 from rfl, BitVec.and_allOnes, BitVec.and_zero, BitVec.and_zero]
  rfl

theorem packByte_low_mask (n3 : BitVec 4) (x : Reg) (nn : Byte) :
    packByte n3 x nn &&& 0xF0FF#16 = packByte n3 0 nn := by
  rw [show 0xF0FF#16 = (0xF#4 ++ 0#4) ++ 0xFF#8 from rfl, packByte]
  refine BitVec.and_append.trans ?_
  rw [BitVec.and_append, show (0xF#4) = BitVec.allOnes 4 from rfl, show (0xFF#8) = BitVec.allOnes 8 from rfl,
    BitVec.and_allOnes, BitVec.and_allOnes, BitVec.and_zero]
  rfl

theorem packRegs_mask (n3 : BitVec 4) (x y : Reg) (n : BitVec 4) :
    packRegs n3 x y n &&& 0xF00F#16 = packRegs n3 0 0 n := by
  rw [show 0xF00F#16 = ((0xF#4 ++ 0#4) ++ 0#4) ++ 0xF#4 from rfl, packRegs]
  refine BitVec.and_append.trans ?_
  rw [BitVec.and_append, BitVec.and_append, show (0xF#4) = BitVec.allOnes 4 from rfl, BitVec.and_allOnes,
    BitVec.and_allOnes, BitVec.and_zero, BitVec.and_zero]
  rfl

theorem packRegs_high_mask (n3 : BitVec 4) (x y : Reg) (n : BitVec 4) :
    packRegs n3 x y n &&& 0xF000#16 = packRegs n3 0 0 0 := by
  rw [show 0xF000#16 = ((0xF#4 ++ 0#4) ++ 0#4) ++ 0#4 from rfl, packRegs]
  refine BitVec.and_append.trans ?_
  rw [BitVec.and_append, BitVec.and_append, show (0xF#4) = BitVec.allOnes 4 from rfl, BitVec.and_allOnes,
    BitVec.and_zero, BitVec.and_zero, BitVec.and_zero]
  rfl

theorem sys (nnn : Addr) : Statement (.sys nnn) := fun _ => beq_iff_eq.mpr ((packAddr_mask _ _).trans rfl)
theorem cls : Statement .cls := fun _ => rfl
theorem ret : Statement .ret := fun _ => rfl
theorem jp (nnn : Addr) : Statement (.jp nnn) := fun _ => beq_iff_eq.mpr ((packAddr_mask _ _).trans rfl)
theorem call (nnn : Addr) : Statement (.call nnn) := fun _ => beq_iff_eq.mpr ((packAddr_mask _ _).trans rfl)
theorem seImm (x : Reg) (nn : Byte) : Statement (.seImm x nn) := fun _ => beq_iff_eq.mpr ((packByte_mask _ _ _).trans rfl)
theorem sneImm (x : Reg) (nn : Byte) : Statement (.sneImm x nn) := fun _ => beq_iff_eq.mpr ((packByte_mask _ _ _).trans rfl)
theorem seReg (x y : Reg) : Statement (.seReg x y) := fun _ => beq_iff_eq.mpr ((packRegs_mask _ _ _ _).trans rfl)
theorem ldImm (x : Reg) (nn : Byte) : Statement (.ldImm x nn) := fun _ => beq_iff_eq.mpr ((packByte_mask _ _ _).trans rfl)
theorem addImm (x : Reg) (nn : Byte) : Statement (.addImm x nn) := fun _ => beq_iff_eq.mpr ((packByte_mask _ _ _).trans rfl)
theorem ldReg (x y : Reg) : Statement (.ldReg x y) := fun _ => beq_iff_eq.mpr ((packRegs_mask _ _ _ _).trans rfl)
theorem orReg (x y : Reg) : Statement (.orReg x y) := fun _ => beq_iff_eq.mpr ((packRegs_mask _ _ _ _).trans rfl)
theorem andReg (x y : Reg) : Statement (.andReg x y) := fun _ => beq_iff_eq.mpr ((packRegs_mask _ _ _ _).trans rfl)
theorem xorReg (x y : Reg) : Statement (.xorReg x y) := fun _ => beq_iff_eq.mpr ((packRegs_mask _ _ _ _).trans rfl)
theorem addReg (x y : Reg) : Statement (.addReg x y) := fun _ => beq_iff_eq.mpr ((packRegs_mask _ _ _ _).trans rfl)
theorem subReg (x y : Reg) : Statement (.subReg x y) := fun _ => beq_iff_eq.mpr ((packRegs_mask _ _ _ _).trans rfl)
theorem shr (x y : Reg) : Statement (.shr x y) := fun _ => beq_iff_eq.mpr ((packRegs_mask _ _ _ _).trans rfl)
theorem subnReg (x y : Reg) : Statement (.subnReg x y) := fun _ => beq_iff_eq.mpr ((packRegs_mask _ _ _ _).trans rfl)
theorem shl (x y : Reg) : Statement (.shl x y) := fun _ => beq_iff_eq.mpr ((packRegs_mask _ _ _ _).trans rfl)
theorem sneReg (x y : Reg) : Statement (.sneReg x y) := fun _ => beq_iff_eq.mpr ((packRegs_mask _ _ _ _).trans rfl)
theorem ldI (nnn : Addr) : Statement (.ldI nnn) := fun _ => beq_iff_eq.mpr ((packAddr_mask _ _).trans rfl)
theorem jpV0 (nnn : Addr) : Statement (.jpV0 nnn) := fun _ => beq_iff_eq.mpr ((packAddr_mask _ _).trans rfl)
theorem rnd (x : Reg) (nn : Byte) : Statement (.rnd x nn) := fun _ => beq_iff_eq.mpr ((packByte_mask _ _ _).trans rfl)
theorem drw (x y : Reg) (n : Count) : Statement (.drw x y n) := fun _ => beq_iff_eq.mpr ((packRegs_high_mask _ _ _ _).trans rfl)
theorem skp (x : Reg) : Statement (.skp x) := fun _ => beq_iff_eq.mpr ((packByte_low_mask _ _ _).trans rfl)
theorem sknp (x : Reg) : Statement (.sknp x) := fun _ => beq_iff_eq.mpr ((packByte_low_mask _ _ _).trans rfl)
theorem ldFromDT (x : Reg) : Statement (.ldFromDT x) := fun _ => beq_iff_eq.mpr ((packByte_low_mask _ _ _).trans rfl)
theorem ldKey (x : Reg) : Statement (.ldKey x) := fun _ => beq_iff_eq.mpr ((packByte_low_mask _ _ _).trans rfl)
theorem ldDT (x : Reg) : Statement (.ldDT x) := fun _ => beq_iff_eq.mpr ((packByte_low_mask _ _ _).trans rfl)
theorem ldST (x : Reg) : Statement (.ldST x) := fun _ => beq_iff_eq.mpr ((packByte_low_mask _ _ _).trans rfl)
theorem addI (x : Reg) : Statement (.addI x) := fun _ => beq_iff_eq.mpr ((packByte_low_mask _ _ _).trans rfl)
theorem ldFont (x : Reg) : Statement (.ldFont x) := fun _ => beq_iff_eq.mpr ((packByte_low_mask _ _ _).trans rfl)
theorem ldBcd (x : Reg) : Statement (.ldBcd x) := fun _ => beq_iff_eq.mpr ((packByte_low_mask _ _ _).trans rfl)
theorem store (x : Reg) : Statement (.store x) := fun _ => beq_iff_eq.mpr ((packByte_low_mask _ _ _).trans rfl)
theorem load (x : Reg) : Statement (.load x) := fun _ => beq_iff_eq.mpr ((packByte_low_mask _ _ _).trans rfl)

end Sys2Proof.Laws.TableRow
end

