-- ==== Sys2Proof/Laws/Step.lean ====
section
/-! SUPPORT. What a fetch and a step can do, said once: the fetched word, and the cases of a step that answers a next
state. -/

namespace Sys2Proof.Machine

/-- A fetch answers the big-endian word at pc, or MemoryOutOfBounds (R82). -/
theorem fetch_eq (s : State) :
    fetch s =
      if s.pc.toNat + 1 < 4096 then
        .ok (wordOfBytes (Memory.read s.mem s.pc.toNat) (Memory.read s.mem (s.pc.toNat + 1)))
      else .error .memoryOutOfBounds := by
  rw [fetch]
  by_cases h : s.pc.toNat + 1 < 4096
  · rw [if_pos ((inRange_iff _).mpr h), if_pos h, memRead_ok s _ (by omega), memRead_ok s _ h]
    rfl
  · rw [if_neg (fun e => h ((inRange_iff _).mp e)), if_neg h]

/-- The fetch reads only pc and memory. -/
theorem fetch_congr (s t : State) (hp : s.pc = t.pc) (hm : s.mem = t.mem) : fetch s = fetch t := by
  rw [fetch_eq, fetch_eq, hp, hm]

/-- Every step that answers a next state either waited for a key and changed nothing, or executed the instruction that
the word at pc decodes to (R80). -/
theorem step_next_cases (s t : State) (h : step s = .next t) :
    (∃ x, s.execState = .awaitingKey x ∧ t = s) ∨
      (s.execState = .running ∧ s.pc.toNat + 1 < 4096 ∧ ∃ op i, fetch s = .ok op ∧ decode op = .ok i ∧
        exec i s = .next t) := by
  unfold step nextAction at h
  cases he : s.execState with
  | awaitingKey x =>
    simp only [he] at h
    exact .inl ⟨x, rfl, by injection h with h; exact h.symm⟩
  | running =>
    simp only [he] at h
    cases hf : fetch s with
    | error f => simp [hf, raise] at h
    | ok op =>
      cases hd : decode op with
      | error e => simp [hf, hd, raise] at h
      | ok i =>
        simp only [hf, hd] at h
        refine .inr ⟨rfl, ?_, op, i, rfl, hd, h⟩
        rw [fetch_eq] at hf
        by_contra hpc
        rw [if_neg hpc] at hf
        cases hf

end Sys2Proof.Machine
end

