-- ==== Sys2Proof/Tests/Slice0.lean ====
section
/-! SUPPORT. The model's own tests. Every expected result is a vector of spec/95_test_vectors.md (named beside the test) or
is worked out by hand from the rule named there. The theorems `test_meets_…` show, for the statement named, operands and
a state that meet its hypotheses, at the ends of their ranges. -/

namespace Sys2Proof.Tests

open Sys2Proof.Machine

/-! ### Helpers -/

/-- The reset state with registers written. -/
def regs (l : List (Reg × Byte)) : State := l.foldl (fun s p => s.setV p.1 p.2) State.reset

/-- The state with bytes stored from an address on. -/
def poke (a : Nat) (bytes : List Byte) (s : State) : State := s.setMem (Memory.writeRun s.mem a bytes)

/-- One step of the state with the instruction word `w` placed at its pc. -/
def run (w : Nat) (s : State) : Result := step (s.withFetchWord 16 w)

/-- The outcome is a next state in which `f` holds. -/
def gives (o : Result) (f : State → Bool) : Bool :=
  match o with
  | .next t => f t
  | .fault _ | .refused _ => false

/-- The outcome is the fault `f`. -/
def faults (o : Result) (f : Fault) : Bool :=
  match o with
  | .fault g => g == f
  | .next _ | .refused _ => false

/-- The bytes of memory from an address on. -/
def peek (a len : Nat) (s : State) : List Byte := (List.range len).map fun k => Memory.read s.mem (a + k)

/-- The pixels that are 1, by column and row. -/
def lit (s : State) : List (Nat × Nat) :=
  (List.finRange 64).flatMap fun c => (List.finRange 32).filterMap fun r =>
    if pixel s.fb c r then some (c.val, r.val) else none

/-! ### WellFormed: the one check, each of its two words -/

theorem test_wellFormed_refuses_sys_0E0 : ¬WellFormed (.sys 0x0E0) := by decide
theorem test_wellFormed_refuses_sys_0EE : ¬WellFormed (.sys 0x0EE) := by decide
theorem test_wellFormed_admits_sys_0E1 : WellFormed (.sys 0x0E1) := by decide

/-! ### Decoding: a word of every row, written out bit by bit from the opcode map (R60, R63) -/

theorem test_decode_sys : decode 0b0000_0010_0100_1110 = .ok (.sys 0x24E) := by decide
theorem test_decode_cls : decode 0b0000_0000_1110_0000 = .ok .cls := by decide
theorem test_decode_ret : decode 0b0000_0000_1110_1110 = .ok .ret := by decide
theorem test_decode_jp : decode 0b0001_0010_0011_0100 = .ok (.jp 0x234) := by decide
theorem test_decode_call : decode 0b0010_1010_1011_1100 = .ok (.call 0xABC) := by decide
theorem test_decode_seImm : decode 0b0011_0001_1100_0101 = .ok (.seImm 1 0xC5) := by decide
theorem test_decode_sneImm : decode 0b0100_1000_0011_1010 = .ok (.sneImm 8 0x3A) := by decide
theorem test_decode_seReg : decode 0b0101_0001_0010_0000 = .ok (.seReg 1 2) := by decide
theorem test_decode_ldImm : decode 0b0110_1010_0000_0111 = .ok (.ldImm 0xA 0x07) := by decide
theorem test_decode_addImm : decode 0b0111_1111_1000_0001 = .ok (.addImm 0xF 0x81) := by decide
theorem test_decode_ldReg : decode 0b1000_0100_1101_0000 = .ok (.ldReg 4 0xD) := by decide
theorem test_decode_orReg : decode 0b1000_0100_1101_0001 = .ok (.orReg 4 0xD) := by decide
theorem test_decode_andReg : decode 0b1000_0100_1101_0010 = .ok (.andReg 4 0xD) := by decide
theorem test_decode_xorReg : decode 0b1000_0100_1101_0011 = .ok (.xorReg 4 0xD) := by decide
theorem test_decode_addReg : decode 0b1000_0001_0010_0100 = .ok (.addReg 1 2) := by decide
theorem test_decode_subReg : decode 0b1000_0001_0010_0101 = .ok (.subReg 1 2) := by decide
theorem test_decode_shr : decode 0b1000_0100_1101_0110 = .ok (.shr 4 0xD) := by decide
theorem test_decode_subnReg : decode 0b1000_0001_0010_0111 = .ok (.subnReg 1 2) := by decide
theorem test_decode_shl : decode 0b1000_0100_1101_1110 = .ok (.shl 4 0xD) := by decide
theorem test_decode_sneReg : decode 0b1001_0001_0010_0000 = .ok (.sneReg 1 2) := by decide
theorem test_decode_ldI : decode 0b1010_1111_1111_1110 = .ok (.ldI 0xFFE) := by decide
theorem test_decode_jpV0 : decode 0b1011_0011_0000_0001 = .ok (.jpV0 0x301) := by decide
theorem test_decode_rnd : decode 0b1100_0101_0000_1111 = .ok (.rnd 5 0x0F) := by decide
theorem test_decode_drw : decode 0b1101_0001_0010_0101 = .ok (.drw 1 2 5) := by decide
theorem test_decode_skp : decode 0b1110_0110_1001_1110 = .ok (.skp 6) := by decide
theorem test_decode_sknp : decode 0b1110_0110_1010_0001 = .ok (.sknp 6) := by decide
theorem test_decode_ldFromDT : decode 0b1111_1001_0000_0111 = .ok (.ldFromDT 9) := by decide
theorem test_decode_ldKey : decode 0b1111_0011_0000_1010 = .ok (.ldKey 3) := by decide
theorem test_decode_ldDT : decode 0b1111_1001_0001_0101 = .ok (.ldDT 9) := by decide
theorem test_decode_ldST : decode 0b1111_1001_0001_1000 = .ok (.ldST 9) := by decide
theorem test_decode_addI : decode 0b1111_1001_0001_1110 = .ok (.addI 9) := by decide
theorem test_decode_ldFont : decode 0b1111_1001_0010_1001 = .ok (.ldFont 9) := by decide
theorem test_decode_ldBcd : decode 0b1111_1001_0011_0011 = .ok (.ldBcd 9) := by decide
theorem test_decode_store : decode 0b1111_1110_0101_0101 = .ok (.store 0xE) := by decide
theorem test_decode_load : decode 0b1111_1110_0110_0101 = .ok (.load 0xE) := by decide

/-- W14, FD6 to FD11, and 5xyN for N = F: words of no row are rejected by name. -/
theorem test_decode_unknown :
    ([0x5001, 0x8008, 0x800F, 0x9121, 0xE09F, 0xF000, 0xFFFF, 0x512F] : List Word).all
      (fun w => decode w == .error (.unknown w)) = true := by decide

/-- R63, R69: the encoder gives the words of W12, W13, W1, W8 and the canonical SHR of D41. -/
theorem test_encode_words :
    [encode (.jp 0x234), encode (.ldImm 0xA 0x07), encode (.addReg 1 2), encode (.drw 1 2 4), encode (.shr 4 0)] =
      [0x1234, 0x6A07, 0x8124, 0xD124, 0x8406] := by decide

/-- R68: two bytes are consumed, the high byte first; one byte is no instruction. -/
theorem test_decode_bytes :
    decodeBytes [0x12, 0x34, 0x56] = .ok (.jp 0x234, [0x56]) ∧ decodeBytes [0x12] = .error .tooShort := by decide

/-- The opcode table's bit numbering: bits 15..12 are the family (spec/opcode_table.json). -/
theorem test_decode_table_word : decodeTableWord 16 0x6A07 = some (.ldImm 0xA 0x07) ∧ decodeTableWord 16 0x5001 = none := by
  decide

/-! ### Fetch and step -/

/-- LO4, CF1: a fresh machine fetches the SYS word 0000. -/
theorem test_first_step_without_load : faults (step State.reset) (.unknownOpcode 0) = true := by decide
/-- FD1: the last word of memory is fetched. -/
theorem test_fetch_last_word :
    gives (run 0x1200 (State.reset.setPc 0xFFE)) (fun t => t.pc == 0x200) = true := by decide
/-- FD2. -/
theorem test_fetch_past_memory : faults (step (State.reset.setPc 0xFFF)) .memoryOutOfBounds = true := by decide
/-- FD4: an odd pc is fetched as it stands. -/
theorem test_fetch_odd_pc : gives (run 0x1204 (State.reset.setPc 0x201)) (fun t => t.pc == 0x204) = true := by decide
/-- CF6: the word at 000 is the font's F090. -/
theorem test_fetch_font : faults (step (State.reset.setPc 0)) (.unknownOpcode 0xF090) = true := by decide
/-- FD5: no fetch during the key wait. -/
theorem test_step_awaiting :
    gives (step ((State.reset.setExec (.awaitingKey 3)).setPc 0xFFF)) (fun t => t.pc == 0xFFF) = true := by decide

/-! ### Control flow -/

/-- CF2. -/
theorem test_sys_faults : faults (run 0x0FFF State.reset) (.unknownOpcode 0x0FFF) = true := by decide
/-- CF4. -/
theorem test_ret :
    gives (run 0x00EE { State.reset with stack := (State.reset.stack.set 0 0x206).set 1 0x310, sp := 2 })
      (fun t => t.pc == 0x310 && t.sp == 1 && t.stack[1] == 0x310) = true := by decide
/-- CF3. -/
theorem test_ret_underflow : faults (run 0x00EE State.reset) .stackUnderflow = true := by decide
/-- CF5. -/
theorem test_jp : gives (run 0x1FFE State.reset) (fun t => t.pc == 0xFFE) = true := by decide
/-- CF7. -/
theorem test_call :
    gives (run 0x2300 { State.reset with sp := 15 })
      (fun t => t.pc == 0x300 && t.sp == 16 && t.stack[15] == 0x202 && t.stack[0] == 0) = true := by decide
/-- CF8. -/
theorem test_call_overflow : faults (run 0x2300 { State.reset with sp := 16 }) .stackOverflow = true := by decide
/-- CF10, and its taken form (R95). -/
theorem test_seImm :
    gives (run 0x332B (regs [(3, 0x2A)])) (fun t => t.pc == 0x202) = true ∧
      gives (run 0x332A (regs [(3, 0x2A)])) (fun t => t.pc == 0x204) = true := by decide
/-- CF11, and its taken form (R96). -/
theorem test_sneImm :
    gives (run 0x432A (regs [(3, 0x2A)])) (fun t => t.pc == 0x202) = true ∧
      gives (run 0x432B (regs [(3, 0x2A)])) (fun t => t.pc == 0x204) = true := by decide
/-- CF12 and CF14. -/
theorem test_seReg :
    gives (run 0x5120 (regs [(1, 7), (2, 8)])) (fun t => t.pc == 0x202) = true ∧
      gives (run 0x5110 (regs [(1, 7)])) (fun t => t.pc == 0x204) = true := by decide
/-- CF13, and its taken form (R98). -/
theorem test_sneReg :
    gives (run 0x9120 (regs [(1, 7), (2, 7)])) (fun t => t.pc == 0x202) = true ∧
      gives (run 0x9120 (regs [(1, 7), (2, 8)])) (fun t => t.pc == 0x204) = true := by decide
/-- CF16: the largest reachable pc. -/
theorem test_jpV0 : gives (run 0xBFFF (regs [(0, 0xFF)])) (fun t => t.pc == 0x10FE) = true := by decide
/-- CF18: the base register is V0. -/
theorem test_jpV0_base : gives (run 0xB300 (regs [(3, 0x40)])) (fun t => t.pc == 0x300) = true := by decide

/-! ### Arithmetic and logic -/

/-- AL1. -/
theorem test_ldImm :
    gives (run 0x61FF (regs [(15, 0x55)])) (fun t => t.getV 1 == 0xFF && t.getV 15 == 0x55 && t.pc == 0x202) = true := by
  decide
/-- AL3. -/
theorem test_addImm : gives (run 0x7201 (regs [(2, 0xFF)])) (fun t => t.getV 2 == 0 && t.getV 15 == 0) = true := by decide
/-- AL4. -/
theorem test_addImm_vF : gives (run 0x7F01 (regs [(15, 0xFF)])) (fun t => t.getV 15 == 0) = true := by decide
/-- AL26. -/
theorem test_ldReg : gives (run 0x8F20 (regs [(2, 0x33)])) (fun t => t.getV 15 == 0x33) = true := by decide
/-- AL23. -/
theorem test_orReg :
    gives (run 0x8121 (regs [(1, 0x0F), (2, 0xF0), (15, 0xAA)])) (fun t => t.getV 1 == 0xFF && t.getV 15 == 0xAA) =
      true := by decide
/-- AL23. -/
theorem test_andReg :
    gives (run 0x8122 (regs [(1, 0x0F), (2, 0xF0), (15, 0xAA)])) (fun t => t.getV 1 == 0 && t.getV 15 == 0xAA) =
      true := by decide
/-- AL24. -/
theorem test_xorReg : gives (run 0x8113 (regs [(1, 0x5A)])) (fun t => t.getV 1 == 0) = true := by decide
/-- W1 and AL5. -/
theorem test_addReg :
    gives (run 0x8124 (regs [(1, 0xF0), (2, 0x20)])) (fun t => t.getV 1 == 0x10 && t.getV 15 == 1) = true ∧
      gives (run 0x8124 (regs [(1, 0x80), (2, 0x7F)])) (fun t => t.getV 1 == 0xFF && t.getV 15 == 0) = true := by decide
/-- AL8 and AL9: for x = F the flag stays. -/
theorem test_addReg_vF :
    gives (run 0x8F14 (regs [(15, 0xFF), (1, 1)])) (fun t => t.getV 15 == 1) = true ∧
      gives (run 0x8F14 (regs [(15, 0x10), (1, 0x10)])) (fun t => t.getV 15 == 0) = true := by decide
/-- W2 and AL10. -/
theorem test_subReg :
    gives (run 0x8125 (regs [(1, 5), (2, 7)])) (fun t => t.getV 1 == 0xFE && t.getV 15 == 0) = true ∧
      gives (run 0x8125 (regs [(1, 5), (2, 5)])) (fun t => t.getV 1 == 0 && t.getV 15 == 1) = true := by decide
/-- AL11 and AL12. -/
theorem test_subReg_vF :
    gives (run 0x8F15 (regs [(15, 3), (1, 5)])) (fun t => t.getV 15 == 0) = true ∧
      gives (run 0x81F5 (regs [(15, 3), (1, 5)])) (fun t => t.getV 1 == 2 && t.getV 15 == 1) = true := by decide
/-- W3 and AL17; FD12: y is ignored. -/
theorem test_shr :
    gives (run 0x8406 (regs [(4, 5)])) (fun t => t.getV 4 == 2 && t.getV 15 == 1) = true ∧
      gives (run 0x8126 (regs [(1, 0xFE), (2, 1)])) (fun t => t.getV 1 == 0x7F && t.getV 15 == 0) = true := by decide
/-- AL18 and AL19. -/
theorem test_shr_vF :
    gives (run 0x8F06 (regs [(15, 3)])) (fun t => t.getV 15 == 1) = true ∧
      gives (run 0x8F06 (regs [(15, 2)])) (fun t => t.getV 15 == 0) = true := by decide
/-- AL13 and AL14. -/
theorem test_subnReg :
    gives (run 0x8127 (regs [(1, 7), (2, 5)])) (fun t => t.getV 1 == 0xFE && t.getV 15 == 0) = true ∧
      gives (run 0x8127 (regs [(1, 5), (2, 5)])) (fun t => t.getV 1 == 0 && t.getV 15 == 1) = true := by decide
/-- AL15. -/
theorem test_subnReg_vF : gives (run 0x8F17 (regs [(15, 1)])) (fun t => t.getV 15 == 0) = true := by decide
/-- W3 and AL21. -/
theorem test_shl :
    gives (run 0x840E (regs [(4, 0x81)])) (fun t => t.getV 4 == 2 && t.getV 15 == 1) = true ∧
      gives (run 0x810E (regs [(1, 0x7F)])) (fun t => t.getV 1 == 0xFE && t.getV 15 == 0) = true := by decide
/-- AL22. -/
theorem test_shl_vF : gives (run 0x8F0E (regs [(15, 0x40)])) (fun t => t.getV 15 == 0) = true := by decide
/-- AL28: nn = 0 gives 00, and the byte is taken (D20). -/
theorem test_rnd_zero_mask :
    ∃ t, exec (.rnd 0 0) (regs [(0, 0x77)]) = .next t ∧ t.getV 0 = 0 ∧ t.draws = 1 :=
  ⟨_, rfl, by simp [State.getV, regs, State.setV, State.advance, State.setPc, State.reset], rfl⟩
/-- AL27: nn = FF gives the byte itself, whatever the sequence is. -/
theorem test_rnd_full_mask (s : State) :
    ∃ t, exec (.rnd 0 0xFF) s = .next t ∧ t.getV 0 = Config.randomSource s.draws :=
  ⟨_, rfl, by
    simp only [State.getV, State.setV, State.advance, State.setPc, Fin.getElem_fin, Fin.val_zero, Vector.getElem_set_self]
    exact BitVec.allOnes_and⟩

/-! ### Index register and memory -/

/-- IM1. -/
theorem test_ldI : gives (run 0xAFFF State.reset) (fun t => t.i == 0x0FFF) = true := by decide
/-- IM2 and IM3. -/
theorem test_addI :
    gives (run 0xF01E ((regs [(0, 1)]).setI 0x0FFF)) (fun t => t.i == 0x1000 && t.getV 15 == 0) = true ∧
      gives (run 0xF11E ((regs [(1, 1)]).setI 0xFFFF)) (fun t => t.i == 0 && t.getV 15 == 1) = true := by decide
/-- IM4 and IM5. -/
theorem test_addI_vF :
    gives (run 0xFF1E ((regs [(15, 0x10)]).setI 0xFFF5)) (fun t => t.i == 5 && t.getV 15 == 1) = true ∧
      gives (run 0xF21E ((regs [(15, 0x77)]).setI 0x300)) (fun t => t.i == 0x300 && t.getV 15 == 0) = true := by decide
/-- IM6 and IM7. -/
theorem test_ldFont :
    gives (run 0xF029 (regs [(0, 0x0F)])) (fun t => t.i == 0x4B) = true ∧
      gives (run 0xF029 (regs [(0, 0xFF)])) (fun t => t.i == 0x4FB) = true := by decide
/-- IM8. -/
theorem test_ldBcd :
    gives (run 0xF033 ((regs [(0, 0xFF)]).setI 0xFFD)) (fun t => peek 0xFFD 3 t == [2, 5, 5] && t.i == 0xFFD) = true := by
  decide
/-- IM10. -/
theorem test_ldBcd_fault : faults (run 0xF033 ((regs [(0, 7)]).setI 0xFFE)) .memoryOutOfBounds = true := by decide
/-- IM11, with the four registers that show the order. -/
theorem test_store :
    gives (run 0xFF55 ((regs [(0, 0x10), (1, 0x11), (14, 0x1E), (15, 0x1F)]).setI 0xFF0))
      (fun t => peek 0xFF0 2 t == [0x10, 0x11] && peek 0xFFE 2 t == [0x1E, 0x1F] && t.i == 0xFF0) = true := by decide
/-- IM12. -/
theorem test_store_fault : faults (run 0xFF55 (State.reset.setI 0xFF1)) .memoryOutOfBounds = true := by decide
/-- IM16: V4 is written and V5 is not; the bytes are glyph 0. -/
theorem test_load :
    gives (run 0xF465 (regs [(5, 0x77)]))
      (fun t => (t.v.toList.take 6 == [0xF0, 0x90, 0x90, 0x90, 0xF0, 0x77]) && t.i == 0) = true := by decide
/-- IM15: VF is loaded as data. -/
theorem test_load_vF :
    gives (run 0xFF65 (poke 0x30E [0x1E, 0x1F] (State.reset.setI 0x300)))
      (fun t => t.getV 14 == 0x1E && t.getV 15 == 0x1F) = true := by decide
/-- IM17: the font region is writable. -/
theorem test_store_to_font :
    gives (run 0xF055 ((regs [(0, 0xAA)]).setI 0x010)) (fun t => peek 0x00F 3 t == [0xF0, 0xAA, 0xF0]) = true := by decide

/-- A write and the read back; writing the byte an address was constructed with leaves nothing listed. -/
theorem test_memory_form :
    Memory.write (Memory.write [] 0x300 7) 0x2FF 9 = [(0x2FF, 9), (0x300, 7)] ∧
      Memory.write [(0x2FF, 9), (0x300, 7)] 0x2FF 0 = [(0x300, 7)] ∧ Memory.write [] 0x000 0xF0 = [] ∧
      Memory.write [] 0x000 0 = [(0, 0)] := by decide
/-- The form refuses a cell out of order, one past memory, and one that holds the construction byte. -/
theorem test_memory_wf_refuses :
    Memory.wf [(0x300, 7), (0x2FF, 9)] = false ∧ Memory.wf [(0x1000, 7)] = false ∧ Memory.wf [(0x300, 0)] = false := by
  decide

/-! ### Display -/

/-- W4. -/
theorem test_cls :
    gives (run 0x00E0 { State.reset with fb := flipPixel State.reset.fb 63 31 }) (fun t => lit t == [] && t.dirty) =
      true := by decide +kernel
/-- W8: both edges wrap. -/
theorem test_drw_wraps :
    gives (run 0xD124 (poke 0x300 [0xFF, 0xFF, 0xFF, 0xFF] ((regs [(1, 60), (2, 30)]).setI 0x300)))
      (fun t => lit t == ([0, 1, 2, 3, 60, 61, 62, 63].flatMap fun c => [(c, 0), (c, 1), (c, 30), (c, 31)]) &&
        t.getV 15 == 0 && t.dirty) = true := by decide +kernel
/-- DR8 and DR7: a collision, and VF as the column. -/
theorem test_drw_collision :
    gives (run 0xD011 (poke 0x300 [0xC0] { State.reset.setI 0x300 with fb := flipPixel State.reset.fb 0 0 }))
        (fun t => lit t == [(1, 0)] && t.getV 15 == 1) = true ∧
      gives (run 0xDF11 (poke 0x300 [0x80] ((regs [(15, 5)]).setI 0x300)))
        (fun t => lit t == [(5, 0)] && t.getV 15 == 0) = true := by decide +kernel
/-- DR4 and DR2: the range check, and none when n = 0. -/
theorem test_drw_range :
    faults (run 0xD015 (State.reset.setI 0xFFC)) .memoryOutOfBounds = true ∧
      gives (run 0xD000 ((regs [(15, 5)]).setI 0xFFFF)) (fun t => lit t == [] && t.getV 15 == 0 && t.dirty) = true := by
  decide +kernel
/-- R132's pseudocode on a place that was not clear: the first draw turns the pixel off and collides, the second turns it
on again and does not (notes/assumptions/18.md). -/
theorem test_drw_twice_on_a_lit_pixel :
    gives (run 0xD011 (poke 0x300 [0x80] { State.reset.setI 0x300 with fb := flipPixel State.reset.fb 0 0 }))
      (fun t => lit t == [] && t.getV 15 == 1 &&
        gives (exec (.drw 0 1 1) t) (fun u => lit u == [(0, 0)] && u.getV 15 == 0)) = true := by decide +kernel

/-! ### Timers and keys -/

/-- TK4. -/
theorem test_ldFromDT : gives (run 0xFF07 (State.reset.setDT 0x3C)) (fun t => t.getV 15 == 0x3C) = true := by decide
/-- TK3, its step. -/
theorem test_ldDT : gives (run 0xF515 (regs [(5, 0xFF)])) (fun t => t.dt == 0xFF && t.st == 0) = true := by decide
/-- TK5. -/
theorem test_ldST :
    gives (run 0xF018 (State.reset.setST 5)) (fun t => t.st == 0 && !soundOutput t && t.dt == 0) = true := by decide
/-- TK6 and TK7. -/
theorem test_skp :
    gives (run 0xE09E ((regs [(0, 0x0F)]).setKey 15 true)) (fun t => t.pc == 0x204) = true ∧
      gives (run 0xE09E (regs [(0, 0x10)])) (fun t => t.pc == 0x202) = true := by decide
/-- TK8 and TK9. -/
theorem test_sknp :
    gives (run 0xE0A1 (regs [(0, 0x10)])) (fun t => t.pc == 0x204) = true ∧
      gives (run 0xE0A1 ((regs [(0, 2)]).setKey 2 true)) (fun t => t.pc == 0x202) = true := by decide
/-- P5, its first operation; TK10: a key held on entry ends nothing. -/
theorem test_ldKey :
    gives (run 0xF30A (State.reset.setKey 4 true))
      (fun t => t.execState == .awaitingKey 3 && t.pc == 0x202 && t.getV 3 == 0) = true := by decide
/-- TK12; TK10: the press of a held key. -/
theorem test_key_wait_ends :
    (setKeyState 0xA true (State.reset.setExec (.awaitingKey 15))).getV 15 = 0x0A ∧
      (setKeyState 0xA true (State.reset.setExec (.awaitingKey 15))).execState = .running ∧
      (setKeyState 4 true ((State.reset.setKey 4 true).setExec (.awaitingKey 1))).execState = .awaitingKey 1 := by decide
/-- TK1 and TK2. -/
theorem test_tick :
    (tickTimers State.reset).dt = 0 ∧ (tickTimers ((State.reset.setDT 1).setST 3)).dt = 0 ∧
      (tickTimers ((State.reset.setDT 1).setST 3)).st = 2 := by decide
/-- LO2, and its frame. -/
theorem test_load_program :
    (performAll [.loadProgram [0x12, 0x00]] ((regs [(3, 9)]).setPc 0x246)).1 = [.ok] ∧
      peek 0x200 3 (performAll [.loadProgram [0x12, 0x00]] ((regs [(3, 9)]).setPc 0x246)).2 = [0x12, 0, 0] ∧
      (performAll [.loadProgram [0x12, 0x00]] ((regs [(3, 9)]).setPc 0x246)).2.pc = 0x246 := by decide
/-- DR10. -/
theorem test_consume_dirty :
    (performAll [.consumeDirty, .consumeDirty] { State.reset with dirty := true }).1 = [.dirty true, .dirty false] := by
  decide

/-! ### What meets the hypotheses of the statements -/

theorem test_meets_DecodeOfEncodeIsIdentity : WellFormed (.drw 15 15 15) ∧ WellFormed (.sys 0) := by decide
theorem test_meets_EncodeOfDecodeIsIdentity : decode 0xDFFF = .ok (.drw 15 15 15) ∧ decode 0 = .ok (.sys 0) := by decide
theorem test_meets_DecodesExactlyTheOpcodeMap : decode 0x00EE = .ok .ret ∧ opcodeRow .ret ∈ opcodeMap := by decide
theorem test_meets_OpcodeMapRowsDoNotOverlap :
    opcodeRow .cls ∈ opcodeMap ∧ opcodeRow (.sys 0) ∈ opcodeMap ∧ (opcodeRow .cls).holds 0x00E0 = true ∧
      (opcodeRow (.sys 0)).holds 0x00E0 = true ∧ opcodeRow .cls ≠ opcodeRow (.sys 0) := by decide
theorem test_meets_ByteAccessesAreChecked : 0xFFF ≤ 0xFFF ∧ 0x1000 > 0xFFF := by decide
theorem test_meets_EqualReadsMakeEqualMemories :
    Memory.wf [(0, 0), (0x4F, 1), (0xFFF, 2)] = true ∧
      ∀ a, Memory.read [(0, 0), (0x4F, 1), (0xFFF, 2)] a = Memory.read [(0, 0), (0x4F, 1), (0xFFF, 2)] a :=
  ⟨by decide, fun _ => rfl⟩
theorem test_meets_FetchIsBigEndian : (State.reset.setPc 0xFFE).pc.toNat + 1 ≤ 0xFFF := by decide
theorem test_meets_StepRunsTheDecodedInstruction :
    (State.reset.setPc 0xFFE).execState = .running ∧ (State.reset.setPc 0xFFE).pc.toNat + 1 ≤ 0xFFF ∧
      decode (wordOfBytes (Memory.read (State.reset.setPc 0xFFE).mem 0xFFE)
        (Memory.read (State.reset.setPc 0xFFE).mem 0xFFF)) = .ok (.sys 0) := by decide
theorem test_meets_FetchPastMemoryFaults :
    (State.reset.setPc 0xFFF).execState = .running ∧ (State.reset.setPc 0xFFF).pc.toNat + 1 > 0xFFF := by decide
theorem test_meets_UndecodableWordFaults :
    (State.reset.setPc 0).execState = .running ∧ fetch (State.reset.setPc 0) = .ok 0xF090 ∧
      decode 0xF090 = .error (.unknown 0xF090) := by decide
theorem test_meets_AwaitingStepDoesNothing :
    ((State.reset.setPc 0x1000).setExec (.awaitingKey 15)).execState = .awaitingKey 15 := by decide
theorem test_meets_PlacedInstructionRunsNext :
    (State.reset.setPc 0xFFE).execState = .running ∧ (State.reset.setPc 0xFFE).pc.toNat + 1 ≤ 0xFFF ∧
      WellFormed (.jp 0xFFE) := by decide
theorem test_meets_FaultingStepChangesNothingAndRecurs :
    step State.reset = .fault (.unknownOpcode 0) ∧ step (State.reset.setPc 0xFFF) = .fault .memoryOutOfBounds :=
  ⟨rfl, rfl⟩
/-- Both clauses, at the ends of the ranges of I and of sp. -/
theorem test_meets_InstructionFaultsExactlyAsSpecified :
    faultOf (.sys 0xFFF) State.reset = some (.unknownOpcode 0xFFF) ∧
      faultOf .ret State.reset = some .stackUnderflow ∧ faultOf .ret { State.reset with sp := 1 } = none ∧
      faultOf (.call 0) { State.reset with sp := 16 } = some .stackOverflow ∧
      faultOf (.call 0) { State.reset with sp := 15 } = none ∧
      faultOf (.load 15) (State.reset.setI 0xFF1) = some .memoryOutOfBounds ∧
      faultOf (.load 15) (State.reset.setI 0xFF0) = none ∧ faultOf (.drw 0 0 0) (State.reset.setI 0xFFFF) = none := by
  decide
theorem test_meets_OnlyTheWritersChangeAPiece :
    (∃ t, exec (.addReg 1 2) State.reset = .next t) ∧ writesReg (.addReg 1 2) 2 = false ∧
      writesPart (.addReg 1 2) .mem = false := ⟨⟨_, rfl⟩, by decide⟩
theorem test_meets_EveryInstructionAdvancesPcByItsRule :
    (∃ t, exec .cls State.reset = .next t) ∧ ∃ t, exec (.skp 0) State.reset = .next t := ⟨⟨_, rfl⟩, _, rfl⟩
theorem test_meets_FlagWritersLeaveZeroOrOne :
    writesFlag (.shl 15 0) = true ∧ ∃ t, exec (.shl 15 0) (regs [(15, 0x80)]) = .next t := ⟨rfl, _, rfl⟩

/-- A state that meets the invariant at its ends: pc at 10FE, a return address of 1000, the last byte written. -/
def edge : State :=
  { State.reset with pc := 0x10FE, stack := State.reset.stack.set 15 0x1000, sp := 16, mem := [(0xFFF, 1)] }

theorem test_meets_invariant_at_its_ends : edge.Inv := ⟨by decide, by decide, by decide⟩
theorem test_meets_StepKeepsTheInvariant :
    (edge.setExec (.awaitingKey 0)).Inv ∧ ∃ t, step (edge.setExec (.awaitingKey 0)) = .next t :=
  ⟨⟨by decide, by decide, by decide⟩, _, rfl⟩
/-- The same with a RET at FFE, which pops the return address 1000. -/
theorem test_meets_StepKeepsTheInvariant_running :
    ({ edge with pc := 0xFFE, mem := [(0xFFF, 0xEE)] } : State).Inv ∧
      gives (step { edge with pc := 0xFFE, mem := [(0xFFF, 0xEE)] }) (fun t => t.pc == 0x1000) = true :=
  ⟨⟨by decide, by decide, by decide⟩, by decide⟩

theorem test_meets_RetPopsTheLatestFrame :
    State.reset.sp.val = 0 ∧ ({ State.reset with sp := 1 } : State).sp.val = (0 : Fin 16).val + 1 ∧
      ({ State.reset with sp := 16 } : State).sp.val = (15 : Fin 16).val + 1 := by decide
theorem test_meets_JumpSetsPc : State.reset.pc.toNat = (0x200 : Addr).toNat := by decide
theorem test_meets_CallPushesAndJumps :
    ({ State.reset with sp := 16 } : State).sp.val = 16 ∧ State.reset.sp.val = (0 : Fin 16).val ∧
      ({ State.reset with sp := 15 } : State).sp.val = (15 : Fin 16).val := by decide
/-- The subroutine has changed V0 and pc. -/
theorem test_meets_CallThenRetReturnsAfterTheCall :
    ∃ t, exec (.call 0x300) { State.reset with sp := 15 } = .next t ∧ ((t.setV 0 7).setPc 0x310).stack = t.stack ∧
      ((t.setV 0 7).setPc 0x310).sp = t.sp := ⟨_, rfl, rfl, rfl⟩
theorem test_meets_BcdStoresTheThreeDigits :
    (State.reset.setI 0xFFD).i.toNat + 2 ≤ 0xFFF ∧ (State.reset.setI 0xFFE).i.toNat + 2 > 0xFFF := by decide
theorem test_meets_StoreAndLoadInOrder :
    (State.reset.setI 0xFF0).i.toNat + (15 : Reg).val ≤ 0xFFF ∧
      (State.reset.setI 0xFF1).i.toNat + (15 : Reg).val > 0xFFF ∧
      (State.reset.setI 0xFFF).i.toNat + (0 : Reg).val ≤ 0xFFF ∧
      (State.reset.setI 0x1000).i.toNat + (0 : Reg).val > 0xFFF := by decide
theorem test_meets_StoreThenLoadRestoresRegisters :
    ∃ t, exec (.store 1) (State.reset.setI 0x300) = .next t ∧ ({ t with v := State.reset.v } : State).mem = t.mem ∧
      ({ t with v := State.reset.v } : State).i = (State.reset.setI 0x300).i := ⟨_, rfl, rfl, rfl⟩
/-- IM18: the store writes the word at 202, which the next step fetches. -/
theorem test_meets_StoredBytesAreFetched :
    ∃ t, exec (.store 1) ((regs [(0, 0x12)]).setI 0x202) = .next t ∧ (1 : Reg).val = (0 : Reg).val + 1 ∧
      (1 : Reg) ≤ 1 ∧ t.pc.toNat = ((regs [(0, 0x12)]).setI 0x202).i.toNat + (0 : Reg).val := ⟨_, rfl, by decide, by decide, rfl⟩
theorem test_meets_DrawFlipsTheCoveredPixels :
    (4 : Count).val ≥ 1 ∧ (State.reset.setI 0xFFC).i.toNat + (4 : Count).val - 1 ≤ 0xFFF ∧
      (State.reset.setI 0xFFC).i.toNat + (5 : Count).val - 1 > 0xFFF ∧ (0 : Count).val = 0 := by decide
/-- The glyph 0 at (63, 31) covers (63, 31) and, over both edges, (2, 3); it does not cover (0, 0). -/
theorem test_meets_Covers :
    Covers State.reset.mem 0 5 63 31 63 31 ∧ Covers State.reset.mem 0 5 63 31 2 3 ∧
      ¬Covers State.reset.mem 0 5 63 31 0 0 :=
  ⟨⟨0, 0, by decide, by decide, by decide, by decide, by decide⟩,
    ⟨4, 3, by decide, by decide, by decide, by decide, by decide⟩, by
    rintro ⟨row, col, hr, hc, hb, h1, h2⟩
    obtain rfl : row = 1 := by omega
    obtain rfl : col = 1 := by omega
    revert hb; decide⟩
/-- The first draw on a clear place (VF = 0), and the second in the state after it. -/
theorem test_meets_DrawingTwiceRestoresTheScreen :
    ∃ t, exec (.drw 1 2 5) State.reset = .next t ∧ t.mem = State.reset.mem ∧ t.i = State.reset.i ∧
      t.getV 1 = State.reset.getV 1 ∧ t.getV 2 = State.reset.getV 2 ∧ t.getV vF = 0 := ⟨_, rfl, by decide +kernel⟩
theorem test_meets_KeySkipsReadTheKey :
    ((regs [(0, 15)]).getV 0).toNat = (15 : Key).val ∧ ((regs [(0, 16)]).getV 0).toNat ≥ 16 ∧
      ((regs [(0, 255)]).getV 0).toNat ≥ 16 := by decide
theorem test_meets_KeyEventsResolveTheWait :
    (State.reset.setExec (.awaitingKey 15)).execState = .awaitingKey 15 ∧
      (State.reset.setExec (.awaitingKey 15)).keys[(15 : Key)] = false ∧ State.reset.execState = .running ∧
      ((State.reset.setKey 15 true).setExec (.awaitingKey 0)).keys[(15 : Key)] = true := by decide
theorem test_meets_WaitHoldsUntilAKeyIsPressed :
    (State.reset.setExec (.awaitingKey 2)).execState = .awaitingKey 2 ∧
      ∀ op ∈ ([.step, .tickTimers, .setKeyState 3 false, .loadProgram [1], .consumeDirty] : List HostOp),
        op.presses = false ∧ op.overloads = false := by decide
theorem test_meets_LoadProgramCopiesOrRefuses :
    (List.replicate 3584 (0xAA : Byte)).length ≤ 3584 ∧ (List.replicate 3585 (0xAA : Byte)).length > 3584 ∧
      3583 < (List.replicate 3584 (0xAA : Byte)).length := by
  rw [List.length_replicate, List.length_replicate]; decide

end Sys2Proof.Tests
end

section
/-! SUPPORT. The statements about the state (spec/10_state.md), after the facts they need: what a completed instruction
whose body can fault did, what its checked operation did, and what each update leaves of a piece of state. -/

namespace Sys2Proof.Machine

/-! ### What a completed instruction did, where its body is not one update -/

/-- A body of one checked operation and a commit completes exactly when the operation answers. -/
theorem deliver_bind_eq_next {α : Type} (r : Except Fault α) (f : α → State) (t : State) :
    deliver (r.bind fun a => .ok (f a)) = .next t ↔ ∃ a, r = .ok a ∧ t = f a := by
  cases r with
  | error e => simp [Except.bind]
  | ok a => simp [Except.bind, eq_comm]

section
variable {s t : State}

theorem exec_ret_next (h : exec .ret s = .next t) : ∃ a u, popFrame s = .ok (a, u) ∧ t = u.setPc a := by
  obtain ⟨⟨a, u⟩, hpop, ht⟩ := (deliver_bind_eq_next (popFrame s) (fun p : Word × State => p.2.setPc p.1) t).mp h
  exact ⟨a, u, hpop, ht⟩

theorem exec_call_next {nnn : Addr} (h : exec (.call nnn) s = .next t) :
    ∃ u, pushFrame s (s.pc + 2) = .ok u ∧ t = u.setPc (addrOperand nnn) :=
  (deliver_bind_eq_next (pushFrame s (s.pc + 2)) (·.setPc (addrOperand nnn)) t).mp h

theorem exec_drw_next {x y : Reg} {n : Count} (h : exec (.drw x y n) s = .next t) :
    ∃ sprite drawn, readRange s (indexAddress s) n.val = .ok sprite ∧
      drawn = drawRows (s.getV x) (s.getV y) 0 sprite (s.fb, false) ∧
      t = ((s.paint drawn.1).setFlag drawn.2).advance := by
  obtain ⟨sprite, hread, ht⟩ := (deliver_bind_eq_next _ _ _).mp h
  exact ⟨sprite, _, hread, rfl, ht⟩

theorem exec_ldBcd_next {x : Reg} (h : exec (.ldBcd x) s = .next t) :
    ∃ u, writeRange s (indexAddress s) (decimalDigits (s.getV x)) = .ok u ∧ t = u.advance :=
  (deliver_bind_eq_next _ State.advance _).mp h

theorem exec_store_next {x : Reg} (h : exec (.store x) s = .next t) :
    ∃ u, writeRange s (indexAddress s) (registersTo s x) = .ok u ∧ t = u.advance :=
  (deliver_bind_eq_next _ State.advance _).mp h

theorem exec_load_next {x : Reg} (h : exec (.load x) s = .next t) :
    ∃ bytes, readRange s (indexAddress s) (x.val + 1) = .ok bytes ∧ t = (loadRegisters s 0 bytes).advance :=
  (deliver_bind_eq_next _ (fun bytes => (loadRegisters s 0 bytes).advance) _).mp h

theorem exec_rnd_next {x : Reg} {nn : Byte} (h : exec (.rnd x nn) s = .next t) :
    t = ((randomByte s).2.setV x (nn &&& (randomByte s).1)).advance := by
  cases h; rfl

end

/-! ### What the checked operations did, where they answered -/

/-- A checked answer is given exactly when the check holds. -/
theorem ite_error_eq_ok {α : Type} {c : Prop} [Decidable c] (a b : α) (f : Fault) :
    (if c then .ok a else .error f) = (.ok b : Except Fault α) ↔ c ∧ b = a := by
  by_cases h : c <;> simp [h, eq_comm]

/-- A push that answers had a free entry, wrote it and counted one frame more (R94). -/
theorem pushFrame_eq_ok (s u : State) (a : Word) :
    pushFrame s a = .ok u ↔ ∃ h : s.sp.val < 16,
      u = { s with stack := s.stack.set s.sp.val a h, sp := ⟨s.sp.val + 1, Nat.succ_lt_succ h⟩ } := by
  by_cases h : s.sp.val < 16
  · simp [pushFrame_ok s a h, h, eq_comm]
  · simp [pushFrame_full s a (by omega), h]

/-- A pop that answers had a frame active, answered the latest entry and counted one frame less (R92). -/
theorem popFrame_eq_ok (s u : State) (a : Word) :
    popFrame s = .ok (a, u) ↔ ∃ _ : s.sp.val ≠ 0,
      a = s.stack[s.sp.val - 1]'(by omega) ∧ u = { s with sp := ⟨s.sp.val - 1, by omega⟩ } := by
  by_cases h : s.sp.val = 0
  · simp [popFrame_empty s h, h]
  · simp [popFrame_ok s h, h, eq_comm]

/-- A range write that answers had its whole range in memory and stored every byte (R49). -/
theorem writeRange_eq_ok (s u : State) (a : Nat) (bytes : List Byte) :
    writeRange s a bytes = .ok u ↔
      (bytes.length = 0 ∨ a + bytes.length ≤ 4096) ∧ u = s.setMem (Memory.writeRun s.mem a bytes) := by
  rw [writeRange_eq, ite_error_eq_ok]

/-- A range read that answers had its whole range in memory and gave its bytes in order (R49). -/
theorem readRange_eq_ok (s : State) (a len : Nat) (bytes : List Byte) :
    readRange s a len = .ok bytes ↔
      (len = 0 ∨ a + len ≤ 4096) ∧ bytes = (List.range len).map fun k => Memory.read s.mem (a + k) := by
  rw [readRange_eq, ite_error_eq_ok]

theorem readRange_length {s : State} {a len : Nat} {bytes : List Byte} (h : readRange s a len = .ok bytes) :
    bytes.length = len := by
  obtain ⟨-, rfl⟩ := (readRange_eq_ok ..).mp h
  rw [List.length_map, List.length_range]

/-! ### What an update leaves of a piece of state -/

section
variable {s t u : State} {p : Part}

@[simp] theorem samePart_refl : SamePart p s s := by cases p <;> simp [SamePart]

@[simp] theorem samePart_setV {x : Reg} {b : Byte} : SamePart p s (t.setV x b) ↔ SamePart p s t := by
  cases p <;> rfl
@[simp] theorem samePart_setPc {a : Word} : SamePart p s (t.setPc a) ↔ SamePart p s t := by cases p <;> rfl
@[simp] theorem samePart_advance : SamePart p s t.advance ↔ SamePart p s t := samePart_setPc
@[simp] theorem samePart_skipIf {c : Bool} : SamePart p s (t.skipIf c) ↔ SamePart p s t := samePart_setPc
@[simp] theorem samePart_setFlag {c : Bool} : SamePart p s (t.setFlag c) ↔ SamePart p s t := samePart_setV
@[simp] theorem samePart_setResultAndFlag {x : Reg} {b : Byte} {c : Bool} :
    SamePart p s (t.setResultAndFlag x b c) ↔ SamePart p s t := samePart_setFlag.trans samePart_setV
@[simp] theorem samePart_loadRegisters {k : Nat} {bytes : List Byte} :
    SamePart p s (loadRegisters t k bytes) ↔ SamePart p s t := by
  rw [loadRegisters_eq]; cases p <;> rfl

theorem samePart_setI {a : Word} (hp : p ≠ .i) : SamePart p s (s.setI a) := by
  cases p <;> simp [SamePart] at hp ⊢
theorem samePart_setDT {b : Byte} (hp : p ≠ .dt) : SamePart p s (s.setDT b) := by
  cases p <;> simp [SamePart] at hp ⊢
theorem samePart_setST {b : Byte} (hp : p ≠ .st) : SamePart p s (s.setST b) := by
  cases p <;> simp [SamePart] at hp ⊢
theorem samePart_setExec {e : ExecState} (hp : p ≠ .execState) : SamePart p s (s.setExec e) := by
  cases p <;> simp [SamePart] at hp ⊢
theorem samePart_setMem {m : Memory} (hp : p ≠ .mem) : SamePart p s (s.setMem m) := by
  cases p <;> simp [SamePart] at hp ⊢
theorem samePart_paint {fb : Framebuffer} (hfb : p ≠ .fb) (hd : p ≠ .dirty) : SamePart p s (s.paint fb) := by
  cases p <;> simp [SamePart] at hfb hd ⊢
theorem samePart_randomByte (hp : p ≠ .draws) : SamePart p s (randomByte s).2 := by
  cases p <;> simp [SamePart, randomByte_eq] at hp ⊢
theorem samePart_pushFrame {a : Word} (h : pushFrame s a = .ok u) (hp : p ≠ .stack) : SamePart p s u := by
  obtain ⟨-, rfl⟩ := (pushFrame_eq_ok ..).mp h
  cases p <;> simp [SamePart] at hp ⊢
theorem samePart_popFrame {a : Word} (h : popFrame s = .ok (a, u)) (hp : p ≠ .stack) : SamePart p s u := by
  obtain ⟨-, -, rfl⟩ := (popFrame_eq_ok ..).mp h
  cases p <;> simp [SamePart] at hp ⊢
theorem samePart_writeRange {a : Nat} {bytes : List Byte} (h : writeRange s a bytes = .ok u) (hp : p ≠ .mem) :
    SamePart p s u := by
  obtain ⟨-, rfl⟩ := (writeRange_eq_ok ..).mp h
  exact samePart_setMem hp

end

/-! ### The registers through the operations that name none -/

section
variable {s u : State}

theorem getV_randomByte (k : Reg) : (randomByte s).2.getV k = s.getV k := rfl
theorem getV_pushFrame {a : Word} (h : pushFrame s a = .ok u) (k : Reg) : u.getV k = s.getV k := by
  obtain ⟨-, rfl⟩ := (pushFrame_eq_ok ..).mp h
  rfl
theorem getV_popFrame {a : Word} (h : popFrame s = .ok (a, u)) (k : Reg) : u.getV k = s.getV k := by
  obtain ⟨-, -, rfl⟩ := (popFrame_eq_ok ..).mp h
  rfl
theorem getV_writeRange {a : Nat} {bytes : List Byte} (h : writeRange s a bytes = .ok u) (k : Reg) :
    u.getV k = s.getV k := by
  obtain ⟨-, rfl⟩ := (writeRange_eq_ok ..).mp h
  rfl

end

/-! ### Only the writers change a piece of state (R24) -/

/-- The register column of R24. -/
theorem exec_getV_of_not_writesReg {i : Instr} {s t : State} (h : exec i s = .next t) {k : Reg}
    (hk : writesReg i k = false) : t.getV k = s.getV k := by
  cases i with
  | sys nnn => cases h
  | cls | jp | seImm | sneImm | seReg | sneReg | ldI | jpV0 | skp | sknp | ldKey | ldDT | ldST | ldFont =>
    cases h; rfl
  | ret =>
    obtain ⟨a, u, hpop, rfl⟩ := exec_ret_next h
    exact getV_popFrame hpop k
  | call nnn =>
    obtain ⟨u, hpush, rfl⟩ := exec_call_next h
    exact getV_pushFrame hpush k
  | ldBcd x =>
    obtain ⟨u, hw, rfl⟩ := exec_ldBcd_next h
    exact getV_writeRange hw k
  | store x =>
    obtain ⟨u, hw, rfl⟩ := exec_store_next h
    exact getV_writeRange hw k
  | ldImm x | addImm x | ldReg x | orReg x | andReg x | xorReg x | ldFromDT x =>
    have hx : k ≠ x := by simpa [writesReg] using hk
    cases h
    simp [hx]
  | rnd x nn =>
    have hx : k ≠ x := by simpa [writesReg] using hk
    obtain rfl := exec_rnd_next h
    simp [hx, getV_randomByte]
  | addReg x | subReg x | shr x | subnReg x | shl x =>
    obtain ⟨hx, hF⟩ : k ≠ x ∧ k ≠ vF := by simpa [writesReg] using hk
    cases h
    simp [hx, hF]
  | addI x =>
    have hF : k ≠ vF := by simpa [writesReg] using hk
    cases h
    simp [hF]
  | drw x y n =>
    have hF : k ≠ vF := by simpa [writesReg] using hk
    obtain ⟨sprite, drawn, -, -, rfl⟩ := exec_drw_next h
    simp [hF]
  | load x =>
    have hx : x.val < k.val := by simpa [writesReg] using hk
    obtain ⟨bytes, hr, rfl⟩ := exec_load_next h
    have hlen := readRange_length hr
    rw [State.getV_advance, getV_loadRegisters, if_neg (by omega)]

/-- The other columns of R24. -/
theorem exec_samePart_of_not_writesPart {i : Instr} {s t : State} (h : exec i s = .next t) {p : Part}
    (hp : writesPart i p = false) : SamePart p s t := by
  cases i with
  | sys nnn => cases h
  | jp | seImm | sneImm | seReg | ldImm | addImm | ldReg | orReg | andReg | xorReg | addReg | subReg | shr | subnReg
  | shl | sneReg | jpV0 | skp | sknp | ldFromDT =>
    cases h
    simp
  | load x =>
    obtain ⟨bytes, -, rfl⟩ := exec_load_next h
    simp
  | ldI | addI | ldFont =>
    have hi : p ≠ .i := by simpa [writesPart] using hp
    cases h
    simp [samePart_setI hi]
  | ldDT x =>
    have hdt : p ≠ .dt := by simpa [writesPart] using hp
    cases h
    simp [samePart_setDT hdt]
  | ldST x =>
    have hst : p ≠ .st := by simpa [writesPart] using hp
    cases h
    simp [samePart_setST hst]
  | ldKey x =>
    have he : p ≠ .execState := by simpa [writesPart] using hp
    cases h
    simp [samePart_setExec he]
  | rnd x nn =>
    have hd : p ≠ .draws := by simpa [writesPart] using hp
    obtain rfl := exec_rnd_next h
    simp [samePart_randomByte hd]
  | cls =>
    obtain ⟨hfb, hd⟩ : p ≠ .fb ∧ p ≠ .dirty := by simpa [writesPart] using hp
    cases h
    simp [samePart_paint hfb hd]
  | drw x y n =>
    obtain ⟨hfb, hd⟩ : p ≠ .fb ∧ p ≠ .dirty := by simpa [writesPart] using hp
    obtain ⟨sprite, drawn, -, -, rfl⟩ := exec_drw_next h
    simp [samePart_paint hfb hd]
  | ret =>
    have hs : p ≠ .stack := by simpa [writesPart] using hp
    obtain ⟨a, u, hpop, rfl⟩ := exec_ret_next h
    simp [samePart_popFrame hpop hs]
  | call nnn =>
    have hs : p ≠ .stack := by simpa [writesPart] using hp
    obtain ⟨u, hpush, rfl⟩ := exec_call_next h
    simp [samePart_pushFrame hpush hs]
  | ldBcd x =>
    have hm : p ≠ .mem := by simpa [writesPart] using hp
    obtain ⟨u, hw, rfl⟩ := exec_ldBcd_next h
    simp [samePart_writeRange hw hm]
  | store x =>
    have hm : p ≠ .mem := by simpa [writesPart] using hp
    obtain ⟨u, hw, rfl⟩ := exec_store_next h
    simp [samePart_writeRange hw hm]

/-- Settles O19, column by column. -/
theorem onlyTheWritersChangeAPiece : Obligations.OnlyTheWritersChangeAPiece := fun _ _ _ h =>
  ⟨fun _ => exec_getV_of_not_writesReg h, fun _ => exec_samePart_of_not_writesPart h⟩

/-! ### The flag is 0 or 1 (R11) -/

/-- A flag-writing instruction ends by writing the flag and advancing pc (R100). -/
theorem exec_writesFlag_next {i : Instr} {s t : State} (hi : writesFlag i = true) (h : exec i s = .next t) :
    ∃ (u : State) (c : Bool), t = (u.setFlag c).advance := by
  cases i with
  | addReg | subReg | shr | subnReg | shl | addI =>
    cases h
    exact ⟨_, _, rfl⟩
  | drw x y n =>
    obtain ⟨sprite, drawn, -, -, rfl⟩ := exec_drw_next h
    exact ⟨_, _, rfl⟩
  | _ => cases hi

/-- Settles O21: the flag is written last, so for x = F too it is what VF holds. -/
theorem flagWritersLeaveZeroOrOne : Obligations.FlagWritersLeaveZeroOrOne := by
  intro i s t hi h
  obtain ⟨u, c, rfl⟩ := exec_writesFlag_next hi h
  cases c <;> simp

/-! ### The state after reset (R25) -/

theorem reset_getV (k : Reg) : State.reset.getV k = 0 := Vector.getElem_replicate k.isLt
theorem reset_stack (j : Fin 16) : State.reset.stack[j] = 0 := Vector.getElem_replicate j.isLt
theorem reset_keys (k : Key) : State.reset.keys[k] = false := Vector.getElem_replicate k.isLt

/-- Settles O22: every return address is 0, and no byte of memory is listed. -/
theorem resetMeetsTheInvariant : Obligations.ResetMeetsTheInvariant where
  mem_wf := Memory.wf_reset
  pc_le := by decide
  stack_le j := by rw [reset_stack]; decide

/-- Settles O59: the screen at reset is the cleared one, and the other vectors are replicated zeros. -/
theorem resetRegisters : Obligations.ResetRegisters :=
  ⟨rfl, reset_getV, rfl, rfl, reset_stack, rfl, rfl, pixel_clearScreen, rfl, reset_keys, rfl⟩

/-- An unwritten byte past the font is 0 (R25). -/
theorem Memory.initByte_of_gt {a : Nat} (h : Config.fontEnd < a) : Memory.initByte a = 0 := by
  rw [Memory.initByte, if_neg (by omega)]

/-- Settles O60: the two halves of the font byte by byte, and the zeros after it from the bound of the font. -/
theorem resetMemoryHoldsTheFont : Obligations.ResetMemoryHoldsTheFont :=
  ⟨by decide, by decide, fun _ h => Memory.initByte_of_gt h⟩

end Sys2Proof.Machine
end

section
/-! SUPPORT. The statements about memory (spec/20_memory.md), after the facts they need: the decoder on each format of
word, memories in canonical form as finite maps, the fetched word as a number, what a placed word and a stored run of
registers read as, and what a load of a program answers. -/

/-! ### The decoder reads every encoded instruction back (R63, R64) -/

namespace Sys2Proof

theorem packAddr_inj {n3 : BitVec 4} {a b : Addr} : packAddr n3 a = packAddr n3 b ↔ a = b :=
  ⟨fun h => by simpa using congrArg fieldNNN h, congrArg _⟩

/-- A well-formed SYS word is neither CLS nor RET, which the decoder reads first (R63). -/
theorem decode_packAddr_sys {nnn : Addr} (h : sysFieldOk nnn) : decode (packAddr 0#4 nnn) = .ok (.sys nnn) := by
  obtain ⟨hcls, hret⟩ := h
  have hcls' : packAddr 0#4 nnn ≠ 0x00E0#16 := fun e => hcls (packAddr_inj.mp e)
  have hret' : packAddr 0#4 nnn ≠ 0x00EE#16 := fun e => hret (packAddr_inj.mp e)
  simp [decode, decode0, hcls', hret']

theorem nibbleNumber_zero : nibbleNumber 0#4 = 0 := rfl

/-- The decoder reads every well-formed instruction back from its own word: the family selector picks the arm, the fixed
low bits pick the row within families 5, 8, 9, E and F, and the field lemmas give the operands. -/
theorem decode_encode {i : Instr} (h : WellFormed i) : decode (encode i) = .ok i := by
  cases i with
  | sys nnn => exact decode_packAddr_sys (of_decide_eq_true h)
  | cls | ret => rfl
  | jp | call | ldI | jpV0 => simp [encode, decode]
  | seImm | sneImm | ldImm | addImm | rnd => simp [encode, decode]
  | seReg | sneReg => simp [encode, decode, nibbleNumber_zero]
  | drw => simp [encode, decode]
  | ldReg | orReg | andReg | xorReg | addReg | subReg | shr | subnReg | shl => simp [encode, decode, decode8]
  | skp | sknp => simp [encode, decode, decodeE]
  | ldFromDT | ldKey | ldDT | ldST | addI | ldFont | ldBcd | store | load => simp [encode, decode, decodeF]

/-- The high byte counts 256s (R46). -/
theorem wordOfBytes_toNat (hi lo : Byte) : (wordOfBytes hi lo).toNat = hi.toNat * 256 + lo.toNat := by
  rw [wordOfBytes, BitVec.toNat_append, ← Nat.shiftLeft_add_eq_or_of_lt lo.isLt, Nat.shiftLeft_eq]

/-- The whole word of an opcode-table row of 16 bits is the word itself. -/
theorem tableWord_toNat (op : Word) : tableWord 16 op.toNat = op := by
  rw [tableWord, Nat.mod_eq_of_lt op.isLt]
  exact BitVec.eq_of_toNat_eq (Nat.mod_eq_of_lt op.isLt)

end Sys2Proof

namespace Sys2Proof.Machine

/-! ### Byte accesses (R41, R42) -/

theorem memRead_past (s : State) {a : Nat} (h : 4096 ≤ a) : memRead s a = .error .memoryOutOfBounds := by
  rw [memRead, if_neg fun e => absurd ((inRange_iff a).mp e) (by omega)]

theorem memWrite_past (s : State) {a : Nat} (v : Byte) (h : 4096 ≤ a) :
    memWrite s a v = .error .memoryOutOfBounds := by
  rw [memWrite, if_neg fun e => absurd ((inRange_iff a).mp e) (by omega)]

/-- Settles O8: past memory both checks fail; inside it the write is one byte of memory. -/
theorem byteAccessesAreChecked : Obligations.ByteAccessesAreChecked := by
  refine fun s a v => ⟨fun h => ⟨memRead_past s h, memWrite_past s v h⟩, fun h => ?_⟩
  have ha : a < 4096 := by omega
  exact ⟨memRead_ok s a ha, _, memWrite_ok s a v ha, rfl, fun b => Memory.read_write s.mem a b v⟩

/-! ### Memories in canonical form are their reads -/

/-- An address below every listed one reads as constructed. -/
theorem Memory.read_of_lt {m : Memory} {a : Nat} (h : ∀ d ∈ m, a < d.1) : Memory.read m a = Memory.initByte a := by
  induction m with
  | nil => rfl
  | cons c m ih =>
    obtain ⟨hc, hm⟩ := List.forall_mem_cons.mp h
    rw [Memory.read_cons, if_neg (by omega), ih hm]

/-- The first address of a canonical memory reads differently from any memory that lists only later ones. -/
theorem Memory.read_head_ne {c : Host.Cell} {m m' : Memory} (h : Memory.wf (c :: m) = true)
    (h' : ∀ d ∈ m', c.1 < d.1) : Memory.read (c :: m) c.1 ≠ Memory.read m' c.1 := by
  obtain ⟨-, hne, -, -⟩ := (Memory.wf_cons c m).mp h
  rwa [Memory.read_cons, if_pos rfl, Memory.read_of_lt h']

/-- Of two canonical memories that read the same, neither begins before the other. -/
theorem Memory.head_le_of_read_eq {c c' : Host.Cell} {m m' : Memory} (h : Memory.wf (c :: m) = true)
    (h' : Memory.wf (c' :: m') = true) (hr : ∀ a, Memory.read (c :: m) a = Memory.read (c' :: m') a) :
    c'.1 ≤ c.1 := by
  obtain ⟨-, -, hall', -⟩ := (Memory.wf_cons c' m').mp h'
  by_contra hlt
  have hc : c.1 < c'.1 := by omega
  exact Memory.read_head_ne h (List.forall_mem_cons.mpr ⟨hc, fun d hd => hc.trans (hall' d hd)⟩) (hr c.1)

/-- Settles O9, by induction on both lists: the first cells agree in address and byte, and then the rests read the same,
the removed address as constructed. -/
theorem equalReadsMakeEqualMemories : Obligations.EqualReadsMakeEqualMemories := by
  intro m m' h h' hr
  induction m generalizing m' with
  | nil =>
    cases m' with
    | nil => rfl
    | cons c' m' => exact absurd (hr c'.1).symm (Memory.read_head_ne h' (List.forall_mem_nil _))
  | cons c m ih =>
    cases m' with
    | nil => exact absurd (hr c.1) (Memory.read_head_ne h (List.forall_mem_nil _))
    | cons c' m' =>
      obtain ⟨-, -, hall, hwf⟩ := (Memory.wf_cons c m).mp h
      obtain ⟨-, -, hall', hwf'⟩ := (Memory.wf_cons c' m').mp h'
      have haddr : c.1 = c'.1 :=
        Nat.le_antisymm (Memory.head_le_of_read_eq h' h fun a => (hr a).symm) (Memory.head_le_of_read_eq h h' hr)
      have hbyte : c.2 = c'.2 := by simpa [Memory.read_cons, haddr] using hr c.1
      have hcell : c = c' := Prod.ext haddr hbyte
      subst hcell
      refine congrArg _ (ih m' hwf hwf' fun a => ?_)
      by_cases ha : c.1 = a
      · subst ha
        rw [Memory.read_of_lt hall, Memory.read_of_lt hall']
      · simpa [Memory.read_cons, ha] using hr a

/-! ### The fetch (R46) and the step that follows it (R80) -/

theorem fetch_ok {s : State} (h : s.pc.toNat + 1 < 4096) :
    fetch s = .ok (wordOfBytes (Memory.read s.mem s.pc.toNat) (Memory.read s.mem (s.pc.toNat + 1))) := by
  rw [fetch_eq, if_pos h]

/-- Settles O10. -/
theorem fetchIsBigEndian : Obligations.FetchIsBigEndian := fun _ h =>
  ⟨_, fetch_ok (Nat.lt_succ_of_le h), wordOfBytes_toNat ..⟩

/-- A Running step whose fetched word decodes to an instruction executes it (R80, R84). -/
theorem step_of_decode {s : State} {op : Word} {i : Instr} (hrun : s.execState = .running) (hf : fetch s = .ok op)
    (hd : decode op = .ok i) : step s = exec i s := by
  simp [step, nextAction, hrun, hf, hd]

/-! ### A word placed at pc -/

/-- A state that can fetch is ready as it is. -/
theorem fetchReady_of_running {s : State} (hrun : s.execState = .running) (hpc : s.pc.toNat + 1 < 4096) :
    fetchReady s = s := by
  have hexec : s.setExec .running = s := by rw [State.setExec, ← hrun]
  rw [fetchReady, hexec]
  exact if_pos ((inRange_iff _).mpr hpc)

theorem withFetchWord_eq_placeWord {s : State} (op : Word) (hrun : s.execState = .running)
    (hpc : s.pc.toNat + 1 < 4096) : s.withFetchWord 16 op.toNat = placeWord s op := by
  rw [State.withFetchWord, fetchReady_of_running hrun hpc, tableWord_toNat]

/-- A placed word lies at pc and pc + 1, high byte first, and no other byte changes (R46). -/
theorem read_placeWord (s : State) (op : Word) (a : Nat) :
    Memory.read (placeWord s op).mem a =
      if a = s.pc.toNat + 1 then lowByte op else if a = s.pc.toNat then highByte op else Memory.read s.mem a := by
  simp only [placeWord, State.setMem_mem, Memory.writeRun, Memory.read_write]

theorem fetch_placeWord {s : State} (op : Word) (hpc : s.pc.toNat + 1 < 4096) : fetch (placeWord s op) = .ok op := by
  have hpc' : (placeWord s op).pc = s.pc := rfl
  rw [fetch_ok (by rwa [hpc']), hpc', read_placeWord, read_placeWord]
  simp

/-- Settles O15: the placed word is fetched and decodes back to its instruction. -/
theorem placedInstructionRunsNext : Obligations.PlacedInstructionRunsNext := by
  intro s i hrun hpc hi
  have hpc' : s.pc.toNat + 1 < 4096 := Nat.lt_succ_of_le hpc
  rw [withFetchWord_eq_placeWord (encode i) hrun hpc']
  refine ⟨step_of_decode hrun (fetch_placeWord _ hpc') (decode_encode hi), rfl, fun a hhi hlo => ?_⟩
  rw [read_placeWord, if_neg hlo, if_neg hhi]

/-! ### Runs of bytes: LD [I],Vx and load_program -/

/-- Byte `k` of a written run lies at its address (R47). -/
theorem Memory.read_writeRun_add (m : Memory) (a : Nat) (bytes : List Byte) {k : Nat} (h : k < bytes.length) :
    Memory.read (Memory.writeRun m a bytes) (a + k) = bytes.getD k 0 := by
  rw [Memory.read_writeRun, if_pos (by omega), Nat.add_sub_cancel_left]

theorem Memory.read_writeRun_of_not_inRun (m : Memory) {a : Nat} {bytes : List Byte} {b : Nat}
    (h : ¬InRun a bytes.length b) : Memory.read (Memory.writeRun m a bytes) b = Memory.read m b := by
  rw [Memory.read_writeRun]
  exact if_neg h

/-- A completed LD [I],Vx had I + x inside memory (R125). -/
theorem exec_store_inRange {x : Reg} {s t : State} (h : exec (.store x) s = .next t) : s.i.toNat + x.val < 4096 := by
  obtain ⟨u, hw, -⟩ := exec_store_next h
  obtain ⟨hrange, -⟩ := (writeRange_eq_ok ..).mp hw
  rw [registersTo_length, indexAddress] at hrange
  omega

/-- A completed LD [I],Vx left V[k] at I + k, for each k up to x (R125). -/
theorem read_exec_store {x k : Reg} {s t : State} (h : exec (.store x) s = .next t) (hk : k ≤ x) :
    Memory.read t.mem (s.i.toNat + k.val) = s.getV k := by
  obtain ⟨u, hw, rfl⟩ := exec_store_next h
  obtain ⟨-, rfl⟩ := (writeRange_eq_ok ..).mp hw
  have hlen : k.val < (registersTo s x).length := by rw [registersTo_length]; exact Nat.lt_succ_of_le hk
  exact (Memory.read_writeRun_add s.mem (indexAddress s) _ hlen).trans (registersTo_getD s x k.val hk)

/-- Settles O46: the two fetched bytes are two of the stored registers. -/
theorem storedBytesAreFetched : Obligations.StoredBytesAreFetched := by
  intro x k l s t u h hmem hl hlx hpc
  have hrange := exec_store_inRange h
  have hlx' : l.val ≤ x.val := hlx
  have hk : k ≤ x := Fin.le_def.mpr (by omega)
  have hnext : u.pc.toNat + 1 = s.i.toNat + l.val := by omega
  rw [fetch_ok (by omega), hnext, hpc, hmem, read_exec_store h hk, read_exec_store h hlx]

theorem perform_loadProgram_ok {bytes : List Byte} (s : State) (h : bytes.length ≤ 3584) :
    perform (.loadProgram bytes) s = (.ok, s.setMem (Memory.writeRun s.mem 0x200 bytes)) := by
  rw [perform, loadProgram_ok bytes s h]

theorem perform_loadProgram_tooLarge {bytes : List Byte} (s : State) (h : 3584 < bytes.length) :
    perform (.loadProgram bytes) s = (.fault .programTooLarge, s) := by
  rw [perform, loadProgram_tooLarge bytes s h]

/-- Settles O58: a load that fits is one run of bytes written at 0x200. -/
theorem loadProgramCopiesOrRefuses : Obligations.LoadProgramCopiesOrRefuses := by
  refine fun bytes s => ⟨perform_loadProgram_tooLarge s, fun hlen => ?_⟩
  rw [perform_loadProgram_ok s hlen]
  refine ⟨rfl, rfl, fun k hk => ?_, fun a ha => Memory.read_writeRun_of_not_inRun s.mem ha⟩
  exact (Memory.read_writeRun_add s.mem 0x200 bytes hk).trans (List.getD_eq_getElem bytes 0 hk)

end Sys2Proof.Machine
end

section
/-! SUPPORT. The statements about the encoding (spec/30_encoding.md), after the facts they need: the fields of a word
as numbers, a word rebuilt from its fields, the words the decoder refuses, and the fields that a row of the opcode map
fixes. -/

namespace Sys2Proof

/-! ### The fields as numbers (R60) -/

theorem fieldN3_toNat (op : Word) : (fieldN3 op).toNat = op.toNat / 4096 := by
  have := op.isLt
  simp only [fieldN3, BitVec.extractLsb'_toNat, Nat.shiftRight_eq_div_pow]
  omega

theorem fieldN_toNat (op : Word) : (fieldN op).toNat = op.toNat % 16 := by simp [fieldN]

theorem fieldNN_toNat (op : Word) : (fieldNN op).toNat = op.toNat % 256 := by simp [fieldNN]

theorem nibbleNumber_eq_zero (f : BitVec 4) : nibbleNumber f = 0 ↔ f.toNat = 0 := Fin.ext_iff

/-! ### A word is the pack of its fields (R60) -/

section
variable {op : Word} {n3 n : BitVec 4} {nn : Byte}

theorem packAddr_fields (h3 : (fieldN3 op).toNat = n3.toNat) : packAddr n3 (fieldNNN op) = op := by
  rw [← BitVec.eq_of_toNat_eq h3, packAddr, fieldN3, fieldNNN,
    BitVec.extractLsb'_append_extractLsb'_eq_extractLsb' (by decide)]
  exact BitVec.extractLsb'_eq_self

theorem packByte_fields (h3 : (fieldN3 op).toNat = n3.toNat) (hnn : (fieldNN op).toNat = nn.toNat) :
    packByte n3 (nibbleNumber (fieldX op)) nn = op := by
  rw [← BitVec.eq_of_toNat_eq h3, ← BitVec.eq_of_toNat_eq hnn, packByte, nibbleField_nibbleNumber, fieldN3, fieldX,
    fieldNN, BitVec.extractLsb'_append_extractLsb'_eq_extractLsb' (by decide),
    BitVec.extractLsb'_append_extractLsb'_eq_extractLsb' (by decide)]
  exact BitVec.extractLsb'_eq_self

theorem packRegs_fields (h3 : (fieldN3 op).toNat = n3.toNat) (hn : (fieldN op).toNat = n.toNat) :
    packRegs n3 (nibbleNumber (fieldX op)) (nibbleNumber (fieldY op)) n = op := by
  rw [← BitVec.eq_of_toNat_eq h3, ← BitVec.eq_of_toNat_eq hn, packRegs, nibbleField_nibbleNumber,
    nibbleField_nibbleNumber, fieldN3, fieldX, fieldY, fieldN,
    BitVec.extractLsb'_append_extractLsb'_eq_extractLsb' (by decide),
    BitVec.extractLsb'_append_extractLsb'_eq_extractLsb' (by decide),
    BitVec.extractLsb'_append_extractLsb'_eq_extractLsb' (by decide)]
  exact BitVec.extractLsb'_eq_self

end

/-! ### Every word that decodes is the word of its instruction (R63, R64, R66) -/

section
variable {op : Word} {i : Instr}

theorem encode_of_decode0 (h3 : (fieldN3 op).toNat = 0) (h : decode0 op = .ok i) : WellFormed i ∧ encode i = op := by
  have hop : packAddr 0#4 (fieldNNN op) = op := packAddr_fields h3
  rw [decode0] at h
  split at h
  · next hcls => cases h; exact ⟨rfl, hcls.symm⟩
  · next hcls =>
    split at h
    · next hret => cases h; exact ⟨rfl, hret.symm⟩
    · next hret =>
      cases h
      exact ⟨decide_eq_true ⟨fun e => hcls (by rw [← hop, e]; rfl), fun e => hret (by rw [← hop, e]; rfl)⟩, hop⟩

theorem encode_of_decode8 (h3 : (fieldN3 op).toNat = 8) (h : decode8 op = .ok i) : WellFormed i ∧ encode i = op := by
  rw [decode8] at h
  split at h <;> cases h
  all_goals exact ⟨rfl, packRegs_fields h3 ‹_›⟩

theorem encode_of_decodeE (h3 : (fieldN3 op).toNat = 14) (h : decodeE op = .ok i) : WellFormed i ∧ encode i = op := by
  rw [decodeE] at h
  split at h <;> cases h
  all_goals exact ⟨rfl, packByte_fields h3 ‹_›⟩

theorem encode_of_decodeF (h3 : (fieldN3 op).toNat = 15) (h : decodeF op = .ok i) : WellFormed i ∧ encode i = op := by
  rw [decodeF] at h
  split at h <;> cases h
  all_goals exact ⟨rfl, packByte_fields h3 ‹_›⟩

/-- Family by family: the selector and the fixed low bits that the decoder tested, with the operands it read, are all
the bits of the word. -/
theorem encode_of_decode (h : decode op = .ok i) : WellFormed i ∧ encode i = op := by
  rw [decode] at h
  split at h
  case h_1 h3 => exact encode_of_decode0 h3 h
  case h_2 h3 | h_3 h3 | h_11 h3 | h_12 h3 => cases h; exact ⟨rfl, packAddr_fields h3⟩
  case h_4 h3 | h_5 h3 | h_7 h3 | h_8 h3 | h_13 h3 => cases h; exact ⟨rfl, packByte_fields h3 rfl⟩
  case h_6 h3 | h_10 h3 =>
    split at h <;> cases h
    next hn => exact ⟨rfl, packRegs_fields h3 ((nibbleNumber_eq_zero _).mp hn)⟩
  case h_14 h3 => cases h; exact ⟨rfl, packRegs_fields h3 rfl⟩
  case h_9 h3 => exact encode_of_decode8 h3 h
  case h_15 h3 => exact encode_of_decodeE h3 h
  case h_16 =>
    have hlt := (fieldN3 op).isLt
    simp only [imp_false] at *
    exact encode_of_decodeF (by omega) h

theorem decode_eq_ok : decode op = .ok i ↔ WellFormed i ∧ encode i = op :=
  ⟨encode_of_decode, fun ⟨hi, hop⟩ => hop ▸ decode_encode hi⟩

end

/-- Settles O1: the decoder on each format of word. -/
theorem decodeOfEncodeIsIdentity : Obligations.DecodeOfEncodeIsIdentity := fun _ => decode_encode

/-- Settles O2: the word is rebuilt from the fields that the decoder read. -/
theorem encodeOfDecodeIsIdentity : Obligations.EncodeOfDecodeIsIdentity := fun _ _ => encode_of_decode

/-! ### The words that decode to no instruction (R65) -/

theorem decode0_ne_error (op : Word) (e : DecodeError) : decode0 op ≠ .error e := by
  rw [decode0]
  split
  · nofun
  · split <;> nofun

theorem decode8_eq_unknown (op : Word) :
    decode8 op = .error (.unknown op) ↔ op.toNat % 16 ≥ 8 ∧ op.toNat % 16 ≠ 0xE := by
  rw [decode8, fieldN_toNat]
  split
  case h_10 =>
    simp only [imp_false] at *
    have hn : op.toNat % 16 ≥ 8 ∧ op.toNat % 16 ≠ 0xE := by omega
    simp [hn]
  all_goals next hn => simp [hn]

theorem decodeE_eq_unknown (op : Word) :
    decodeE op = .error (.unknown op) ↔ op.toNat % 256 ∉ [0x9E, 0xA1] := by
  rw [decodeE, fieldNN_toNat]
  split
  case h_3 => simp_all
  all_goals next hnn => simp [hnn]

theorem decodeF_eq_unknown (op : Word) :
    decodeF op = .error (.unknown op) ↔
      op.toNat % 256 ∉ [0x07, 0x0A, 0x15, 0x18, 0x1E, 0x29, 0x33, 0x55, 0x65] := by
  rw [decodeF, fieldNN_toNat]
  split
  case h_10 => simp_all
  all_goals next hnn => simp [hnn]

/-- Settles O5, family by family: only families 5, 8, 9, E and F have words without an instruction. -/
theorem unknownWordsAreExactlyThese : Obligations.UnknownWordsAreExactlyThese := by
  intro op
  rw [decode, fieldN3_toNat]
  split
  case h_1 h3 => simp [h3, decode0_ne_error]
  case h_6 h3 | h_10 h3 => simp [h3, nibbleNumber_eq_zero, fieldN_toNat]
  case h_9 h3 => simp [h3, decode8_eq_unknown]
  case h_15 h3 => simp [h3, decodeE_eq_unknown]
  case h_16 =>
    have hlt := op.isLt
    simp only [imp_false] at *
    have h3 : op.toNat / 4096 = 15 := by omega
    simp [h3, decodeF_eq_unknown]
  all_goals next h3 => simp [h3]

/-! ### The rows of the opcode map (R63) -/

section
variable {row : OpcodeRow} {op : Word} {i : Instr}

theorem OpcodeRow.holds_iff : row.holds op = true ↔ op &&& row.mask = row.value := beq_iff_eq

/-- A field that the mask of a row keeps whole has its value from the row. -/
theorem extractLsb'_of_holds (h : row.holds op = true) {start len : Nat}
    (hm : row.mask.extractLsb' start len = BitVec.allOnes len) :
    op.extractLsb' start len = row.value.extractLsb' start len := by
  rw [← OpcodeRow.holds_iff.mp h, BitVec.extractLsb'_and, hm, BitVec.and_allOnes]

/-- Every row fixes the family selector. -/
theorem fieldN3_mask (i : Instr) : fieldN3 (opcodeRow i).mask = BitVec.allOnes 4 := by
  cases i <;> simp [opcodeRow, fieldN3]

theorem fieldN3_of_holds (h : (opcodeRow i).holds op = true) :
    (fieldN3 op).toNat = (opcodeRow i).value.toNat / 4096 :=
  (congrArg BitVec.toNat (extractLsb'_of_holds h (fieldN3_mask i))).trans (fieldN3_toNat _)

theorem fieldN_of_holds (h : row.holds op = true) (hm : row.mask = 0xF00F#16) :
    (fieldN op).toNat = row.value.toNat % 16 :=
  (congrArg BitVec.toNat (extractLsb'_of_holds h (hm ▸ by decide))).trans (fieldN_toNat _)

theorem fieldNN_of_holds (h : row.holds op = true) (hm : row.mask = 0xF0FF#16) :
    (fieldNN op).toNat = row.value.toNat % 256 :=
  (congrArg BitVec.toNat (extractLsb'_of_holds h (hm ▸ by decide))).trans (fieldNN_toNat _)

/-- A row whose mask keeps every bit has one word. -/
theorem eq_value_of_holds (h : row.holds op = true) (hm : row.mask = BitVec.allOnes 16) : op = row.value := by
  rw [← OpcodeRow.holds_iff.mp h, hm, BitVec.and_allOnes]

/-- `a` is the row of the instruction `j`, or it is the SYS row and `j` is CLS or RET, which share its words (R63). -/
def RowOrException (a : OpcodeRow) (j : Instr) : Prop :=
  a = opcodeRow j ∨ a = opcodeRow (.sys 0) ∧ (j = .cls ∨ j = .ret)

/-- Every word of a row decodes to an instruction of that row, but for 00E0 and 00EE in the SYS row: the fixed bits of
the row are what the decoder tests. -/
theorem decode_of_holds (h : (opcodeRow i).holds op = true) :
    ∃ j, decode op = .ok j ∧ RowOrException (opcodeRow i) j := by
  cases i with
  | sys nnn =>
    have h3 : (fieldN3 op).toNat = 0 := by simpa [opcodeRow] using fieldN3_of_holds h
    simp only [decode, h3, decode0]
    split
    · exact ⟨_, rfl, .inr ⟨rfl, .inl rfl⟩⟩
    · split
      · exact ⟨_, rfl, .inr ⟨rfl, .inr rfl⟩⟩
      · exact ⟨_, rfl, .inl rfl⟩
  | cls | ret => exact ⟨_, congrArg decode (eq_value_of_holds h rfl), .inl rfl⟩
  | jp | call | seImm | sneImm | ldImm | addImm | ldI | jpV0 | rnd | drw =>
    simp [decode, fieldN3_of_holds h, opcodeRow, RowOrException]
  | seReg | sneReg =>
    simp [decode, fieldN3_of_holds h, nibbleNumber_eq_zero, fieldN_of_holds h rfl, opcodeRow, RowOrException]
  | ldReg | orReg | andReg | xorReg | addReg | subReg | shr | subnReg | shl =>
    simp [decode, fieldN3_of_holds h, decode8, fieldN_of_holds h rfl, opcodeRow, RowOrException]
  | skp | sknp => simp [decode, fieldN3_of_holds h, decodeE, fieldNN_of_holds h rfl, opcodeRow, RowOrException]
  | ldFromDT | ldKey | ldDT | ldST | addI | ldFont | ldBcd | store | load =>
    simp [decode, fieldN3_of_holds h, decodeF, fieldNN_of_holds h rfl, opcodeRow, RowOrException]

theorem opcodeRow_mem_opcodeMap (i : Instr) : opcodeRow i ∈ opcodeMap := by
  cases i <;> simp [opcodeMap, variants, opcodeRow]

theorem exists_opcodeRow_of_mem (h : row ∈ opcodeMap) : ∃ i, opcodeRow i = row := by
  obtain ⟨i, -, hi⟩ := List.mem_map.mp h
  exact ⟨i, hi⟩

/-- The row table, gathered from its lemmas instruction by instruction. -/
theorem Laws.TableRow.statement : ∀ i, Laws.TableRow.Statement i
  | .sys a => sys a | .cls => cls | .ret => ret | .jp a => jp a | .call a => call a | .seImm x b => seImm x b
  | .sneImm x b => sneImm x b | .seReg x y => seReg x y | .ldImm x b => ldImm x b | .addImm x b => addImm x b
  | .ldReg x y => ldReg x y | .orReg x y => orReg x y | .andReg x y => andReg x y | .xorReg x y => xorReg x y
  | .addReg x y => addReg x y | .subReg x y => subReg x y | .shr x y => shr x y | .subnReg x y => subnReg x y
  | .shl x y => shl x y | .sneReg x y => sneReg x y | .ldI a => ldI a | .jpV0 a => jpV0 a | .rnd x b => rnd x b
  | .drw x y n => drw x y n | .skp x => skp x | .sknp x => sknp x | .ldFromDT x => ldFromDT x | .ldKey x => ldKey x
  | .ldDT x => ldDT x | .ldST x => ldST x | .addI x => addI x | .ldFont x => ldFont x | .ldBcd x => ldBcd x
  | .store x => store x | .load x => load x

theorem holds_of_decode (h : decode op = .ok i) : (opcodeRow i).holds op = true := by
  obtain ⟨hi, rfl⟩ := encode_of_decode h
  exact Laws.TableRow.statement i hi

end

/-- Settles O3: a word that decodes is the word of its instruction and so in that row; a word of a row decodes. -/
theorem decodesExactlyTheOpcodeMap : Obligations.DecodesExactlyTheOpcodeMap := by
  refine fun op => ⟨⟨fun ⟨i, h⟩ => ⟨opcodeRow i, opcodeRow_mem_opcodeMap i, holds_of_decode h⟩, ?_⟩,
    fun _ => holds_of_decode⟩
  rintro ⟨row, hmem, h⟩
  obtain ⟨i, rfl⟩ := exists_opcodeRow_of_mem hmem
  obtain ⟨j, hj, -⟩ := decode_of_holds h
  exact ⟨j, hj⟩

theorem mnemonic_of_exception {j : Instr} (h : j = .cls ∨ j = .ret) :
    (opcodeRow j).mnemonic = "CLS" ∨ (opcodeRow j).mnemonic = "RET" := by
  obtain rfl | rfl := h
  · exact .inl rfl
  · exact .inr rfl

/-- Settles O4: both rows are the row of the one instruction that the word decodes to, or the exception. -/
theorem opcodeMapRowsDoNotOverlap : Obligations.OpcodeMapRowsDoNotOverlap := by
  intro a ha b hb op hopa hopb hne
  obtain ⟨i, rfl⟩ := exists_opcodeRow_of_mem ha
  obtain ⟨i', rfl⟩ := exists_opcodeRow_of_mem hb
  obtain ⟨j, hj, hrow⟩ := decode_of_holds hopa
  obtain ⟨j', hj', hrow'⟩ := decode_of_holds hopb
  obtain rfl : j = j' := Except.ok.inj (hj.symm.trans hj')
  rcases hrow with hi | ⟨hi, hexc⟩ <;> rcases hrow' with hi' | ⟨hi', hexc'⟩
  · exact absurd (hi.trans hi'.symm) hne
  · rw [hi, hi']
    exact .inr ⟨rfl, mnemonic_of_exception hexc'⟩
  · rw [hi, hi']
    exact .inl ⟨rfl, mnemonic_of_exception hexc⟩
  · exact absurd (hi.trans hi'.symm) hne

/-! ### The byte stream (R46, R68) -/

theorem highByte_wordOfBytes (hi lo : Byte) : highByte (wordOfBytes hi lo) = hi := by
  rw [highByte, wordOfBytes, BitVec.extractLsb'_append_eq_of_le (by decide)]
  exact BitVec.extractLsb'_eq_self

theorem lowByte_wordOfBytes (hi lo : Byte) : lowByte (wordOfBytes hi lo) = lo := by
  rw [lowByte, wordOfBytes, BitVec.extractLsb'_append_eq_of_add_le (by decide)]
  exact BitVec.extractLsb'_eq_self

theorem eq_wordOfBytes (op : Word) (hi lo : Byte) : op = wordOfBytes hi lo ↔ hi = highByte op ∧ lo = lowByte op := by
  constructor
  · rintro rfl
    exact ⟨(highByte_wordOfBytes hi lo).symm, (lowByte_wordOfBytes hi lo).symm⟩
  · rintro ⟨rfl, rfl⟩
    exact (wordOfBytes_bytes op).symm

/-- Two bytes are consumed, whatever they are (R68). -/
theorem decodeBytes_cons_cons (hi lo : Byte) (bytes rest : List Byte) (i : Instr) :
    decodeBytes (hi :: lo :: bytes) = .ok (i, rest) ↔ decode (wordOfBytes hi lo) = .ok i ∧ bytes = rest := by
  rw [decodeBytes]
  cases decode (wordOfBytes hi lo) <;> simp

/-- Settles O6: of two bytes or more, the first two are decoded as a word; fewer are no instruction's bytes. -/
theorem instructionIsTwoBytesHighFirst : Obligations.InstructionIsTwoBytesHighFirst := by
  intro bytes i rest
  match bytes with
  | [] | [_] => simp [decodeBytes]
  | hi :: lo :: bytes => simp [decodeBytes_cons_cons, decode_eq_ok, eq_wordOfBytes, and_assoc]

/-- Settles O7: each word is decoded. -/
theorem sampleWordsDecode : Obligations.SampleWordsDecode := by
  unfold Obligations.SampleWordsDecode
  decide

end Sys2Proof
end

section
/-! SUPPORT. The statements about the fetch and the step (spec/40_fetch_and_step.md), after the facts they need: what a
step answers in each case of R80, which fault an instruction body raises, what an instruction does to pc, and what keeps
the invariant and the key wait. -/

namespace Sys2Proof

/-! ### The only way to fail to decode (R64, R65) -/

/-- A word that decodes to no instruction is rejected by name, whichever family it is of. -/
theorem decode_error {op : Word} {e : DecodeError} (h : decode op = .error e) : e = .unknown op := by
  rw [decode] at h
  split at h
  case h_1 => exact absurd h (decode0_ne_error op e)
  case h_6 | h_10 =>
    split at h <;> cases h
    rfl
  case h_9 | h_15 | h_16 =>
    simp only [decode8, decodeE, decodeF] at h
    split at h <;> cases h
    rfl
  all_goals cases h

end Sys2Proof

namespace Sys2Proof.Machine

/-! ### What a step answers, case by case (R80 to R83) -/

section
variable {s : State} {f : Fault}

theorem fetch_past (h : 4096 ≤ s.pc.toNat + 1) : fetch s = .error .memoryOutOfBounds := by
  rw [fetch_eq, if_neg (by omega)]

theorem step_of_awaitingKey {x : Reg} (hwait : s.execState = .awaitingKey x) : step s = .next s := by
  simp [step, nextAction, hwait]

theorem step_of_fetch_error (hrun : s.execState = .running) (hf : fetch s = .error f) : step s = .fault f := by
  simp [step, nextAction, hrun, hf, raise]

theorem step_of_decode_error {op : Word} {e : DecodeError} (hrun : s.execState = .running) (hf : fetch s = .ok op)
    (hd : decode op = .error e) : step s = .fault (.unknownOpcode op) := by
  simp [step, nextAction, hrun, hf, hd, raise]

/-- A faulting step gives the state before it back (R85). -/
theorem perform_step_of_fault (h : step s = .fault f) : perform .step s = (.fault f, s) := by
  rw [perform, h]

end

/-- Settles O11: the two bytes at pc are the fetched word. -/
theorem stepRunsTheDecodedInstruction : Obligations.StepRunsTheDecodedInstruction := fun _ _ hrun hpc hd =>
  step_of_decode hrun (fetch_ok (Nat.lt_succ_of_le hpc)) hd

/-- Settles O12. -/
theorem fetchPastMemoryFaults : Obligations.FetchPastMemoryFaults := by
  intro s hrun hpc
  have h := step_of_fetch_error hrun (fetch_past hpc)
  exact ⟨h, perform_step_of_fault h⟩

/-- Settles O13. -/
theorem undecodableWordFaults : Obligations.UndecodableWordFaults := by
  intro s op e hrun hf hd
  have h := step_of_decode_error hrun hf hd
  exact ⟨h, perform_step_of_fault h⟩

/-- Settles O14. -/
theorem awaitingStepDoesNothing : Obligations.AwaitingStepDoesNothing := fun _ _ => step_of_awaitingKey

/-- Settles O16: the second step starts from the state before the first. -/
theorem faultingStepChangesNothingAndRecurs : Obligations.FaultingStepChangesNothingAndRecurs := by
  intro s f h
  have hp := perform_step_of_fault h
  exact ⟨hp, by simp only [performAll, hp]⟩

/-! ### The fault an instruction raises (R86) -/

/-- The fault of a checked operation or of an instruction body, if it raises one. -/
def raised {α : Type} (r : Except Fault α) : Option Fault :=
  match r with
  | .ok _ => none
  | .error f => some f

theorem raised_eq_some {α : Type} {r : Except Fault α} {f : Fault} : raised r = some f ↔ r = .error f := by
  cases r <;> simp [raised]

/-- A body of one checked operation and a commit raises what the operation raises. -/
theorem raised_bind {α : Type} (r : Except Fault α) (g : α → State) :
    raised (r.bind fun a => .ok (g a)) = raised r := by
  cases r <;> rfl

theorem raised_popFrame (s : State) :
    raised (popFrame s) = if s.sp.val = 0 then some .stackUnderflow else none := by
  by_cases h : s.sp.val = 0
  · rw [popFrame_empty s h, if_pos h]; rfl
  · rw [popFrame_ok s h, if_neg h]; rfl

theorem raised_pushFrame (s : State) (a : Word) :
    raised (pushFrame s a) = if s.sp.val = 16 then some .stackOverflow else none := by
  by_cases h : s.sp.val = 16
  · rw [pushFrame_full s a h, if_pos h]; rfl
  · rw [pushFrame_ok s a (by omega), if_neg h]; rfl

/-- A checked access at I faults exactly when its range runs past memory, in the spec's words (R49). -/
theorem raised_checkedAtIndex {α : Type} (s : State) (len : Nat) (a : α) :
    raised (if len = 0 ∨ indexAddress s + len ≤ 4096 then .ok a else .error .memoryOutOfBounds) =
      if IndexRunsPast s len then some .memoryOutOfBounds else none := by
  have hexcl : (len = 0 ∨ indexAddress s + len ≤ 4096) ↔ ¬IndexRunsPast s len := by
    rw [IndexRunsPast, indexAddress]
    omega
  by_cases h : IndexRunsPast s len
  · rw [if_neg (hexcl.not.mpr (not_not_intro h)), if_pos h]; rfl
  · rw [if_pos (hexcl.mpr h), if_neg h]; rfl

theorem raised_readRange (s : State) (len : Nat) :
    raised (readRange s (indexAddress s) len) = if IndexRunsPast s len then some .memoryOutOfBounds else none := by
  rw [readRange_eq, raised_checkedAtIndex]

theorem raised_writeRange (s : State) (bytes : List Byte) :
    raised (writeRange s (indexAddress s) bytes) =
      if IndexRunsPast s bytes.length then some .memoryOutOfBounds else none := by
  rw [writeRange_eq, raised_checkedAtIndex]

/-- The word of SYS is its address field (R63). -/
theorem encode_sys (nnn : Addr) : encode (.sys nnn) = BitVec.ofNat 16 nnn.toNat := by
  apply BitVec.eq_of_toNat_eq
  have hlt : nnn.toNat < 2 ^ 16 := nnn.isLt.trans (by decide)
  rw [BitVec.toNat_ofNat, Nat.mod_eq_of_lt hlt]
  refine (BitVec.toNat_append 0#4 nnn).trans ?_
  simp

/-- Every instruction delivers a body that raises the spec's fault for it, or commits where the spec names none. -/
theorem exec_eq_deliver (i : Instr) (s : State) : ∃ r, exec i s = deliver r ∧ raised r = faultOf i s := by
  cases i with
  | sys nnn => exact ⟨.error (.unknownOpcode (encode (.sys nnn))), rfl, by rw [encode_sys]; rfl⟩
  | cls | jp | seImm | sneImm | seReg | ldImm | addImm | ldReg | orReg | andReg | xorReg | addReg | subReg | shr
  | subnReg | shl | sneReg | ldI | jpV0 | rnd | skp | sknp | ldFromDT | ldKey | ldDT | ldST | addI | ldFont =>
    exact ⟨.ok _, rfl, rfl⟩
  | ret => exact ⟨_, rfl, (raised_bind (popFrame s) fun p => p.2.setPc p.1).trans (raised_popFrame s)⟩
  | call nnn => exact ⟨_, rfl, (raised_bind _ fun u => u.setPc (addrOperand nnn)).trans (raised_pushFrame s _)⟩
  | drw x y n => exact ⟨_, rfl, (raised_bind _ _).trans (raised_readRange s n.val)⟩
  | ldBcd x => exact ⟨_, rfl, (raised_bind _ State.advance).trans (raised_writeRange s _)⟩
  | store x =>
    refine ⟨_, rfl, (raised_bind _ State.advance).trans ?_⟩
    rw [raised_writeRange, registersTo_length]
    rfl
  | load x => exact ⟨_, rfl, (raised_bind _ _).trans (raised_readRange s (x.val + 1))⟩

theorem exec_eq_fault {i : Instr} {s : State} {f : Fault} : exec i s = .fault f ↔ faultOf i s = some f := by
  obtain ⟨r, hr, hf⟩ := exec_eq_deliver i s
  rw [hr, deliver_eq_fault, ← hf, raised_eq_some]

/-- Settles O17: a body either raises or commits. -/
theorem instructionFaultsExactlyAsSpecified : Obligations.InstructionFaultsExactlyAsSpecified := by
  refine fun i s => ⟨fun f => exec_eq_fault.mpr, fun hnone => ?_⟩
  obtain ⟨r, hr, hf⟩ := exec_eq_deliver i s
  cases r with
  | ok t => exact ⟨t, hr⟩
  | error f => simp [← hf, raised] at hnone

/-- Settles O18: the key wait, then the fetch, then the decoder, then the instruction. -/
theorem stepFaultsExactlyAsSpecified : Obligations.StepFaultsExactlyAsSpecified := by
  intro s f
  cases hx : s.execState with
  | awaitingKey x => simp [step_of_awaitingKey hx]
  | running =>
    by_cases hpc : s.pc.toNat + 1 < 4096
    · have hpc' : ¬s.pc.toNat + 1 > 0xFFF := by omega
      obtain ⟨op, hf⟩ : ∃ op, fetch s = .ok op := ⟨_, fetch_ok hpc⟩
      cases hd : decode op with
      | error e =>
        obtain rfl := decode_error hd
        simp [step_of_decode_error hx hf hd, hpc', hf, hd, eq_comm]
      | ok i => simp [step_of_decode hx hf hd, exec_eq_fault, hpc', hf, hd]
    · have hf := fetch_past (Nat.le_of_not_lt hpc)
      have hpc' : s.pc.toNat + 1 > 0xFFF := by omega
      simp [step_of_fetch_error hx hf, hpc', hf, eq_comm]

/-! ### What a completed instruction does to pc (R84) -/

theorem writeRange_pc {s u : State} {a : Nat} {bytes : List Byte} (h : writeRange s a bytes = .ok u) :
    u.pc = s.pc := by
  obtain ⟨-, rfl⟩ := (writeRange_eq_ok ..).mp h
  rfl

/-- A skip ends in `skipIf`, every other instruction but the jumps, CALL and RET in `advance`. -/
theorem exec_pcRule {i : Instr} {s t : State} (h : exec i s = .next t) : PcRule i s t := by
  cases i with
  | sys | ret | jp | call | jpV0 => trivial
  | seImm | sneImm | seReg | sneReg | skp | sknp =>
    cases h
    exact (ite_eq_or_eq ..).symm
  | cls | ldImm | addImm | ldReg | orReg | andReg | xorReg | addReg | subReg | shr | subnReg | shl | ldI | rnd
  | ldFromDT | ldKey | ldDT | ldST | addI | ldFont =>
    cases h
    rfl
  | drw x y n =>
    obtain ⟨sprite, drawn, -, -, rfl⟩ := exec_drw_next h
    rfl
  | ldBcd x =>
    obtain ⟨u, hw, rfl⟩ := exec_ldBcd_next h
    exact congrArg (· + 2) (writeRange_pc hw)
  | store x =>
    obtain ⟨u, hw, rfl⟩ := exec_store_next h
    exact congrArg (· + 2) (writeRange_pc hw)
  | load x =>
    obtain ⟨bytes, -, rfl⟩ := exec_load_next h
    exact congrArg (· + 2) (loadRegisters_pc ..)

/-- Settles O20. -/
theorem everyInstructionAdvancesPcByItsRule : Obligations.EveryInstructionAdvancesPcByItsRule := fun _ _ _ =>
  exec_pcRule

/-! ### The invariant: what an instruction at a fetchable pc keeps (R26, R87) -/

section
variable {i : Instr} {s t u : State}

theorem wf_writeRange {a : Nat} {bytes : List Byte} (h : writeRange s a bytes = .ok u)
    (hwf : Memory.wf s.mem = true) : Memory.wf u.mem = true := by
  obtain ⟨hlen | hrange, rfl⟩ := (writeRange_eq_ok ..).mp h
  · rw [List.length_eq_zero_iff.mp hlen]
    exact hwf
  · exact Memory.wf_writeRun s.mem a bytes hwf hrange

/-- Only LD B and LD [I],Vx write memory, and they write a checked range. -/
theorem exec_mem_wf (h : exec i s = .next t) (hwf : Memory.wf s.mem = true) : Memory.wf t.mem = true := by
  cases hw : writesPart i .mem with
  | false =>
    have hmem : t.mem = s.mem := exec_samePart_of_not_writesPart h hw
    rwa [hmem]
  | true =>
    cases i with
    | ldBcd x =>
      obtain ⟨u, hwrite, rfl⟩ := exec_ldBcd_next h
      exact wf_writeRange (u := u) hwrite hwf
    | store x =>
      obtain ⟨u, hwrite, rfl⟩ := exec_store_next h
      exact wf_writeRange (u := u) hwrite hwf
    | _ => cases hw

/-- From a pc that can be fetched, the next instruction lies at 1000 at most, and the one after it at 1002 at most. -/
theorem pc_add_le (hpc : s.pc.toNat + 1 < 4096) : (s.pc + 2).toNat ≤ 0x1000 ∧ (s.pc + 4).toNat ≤ 0x1002 := by
  bv_omega

/-- RET writes no entry, and CALL writes the address of the instruction after it. -/
theorem exec_stack_le (h : exec i s = .next t) (hpc : s.pc.toNat + 1 < 4096)
    (hstack : ∀ j : Fin 16, s.stack[j].toNat ≤ 0x1000) (j : Fin 16) : t.stack[j].toNat ≤ 0x1000 := by
  cases hw : writesPart i .stack with
  | false =>
    obtain ⟨hsame, -⟩ : t.stack = s.stack ∧ t.sp = s.sp := exec_samePart_of_not_writesPart h hw
    rw [hsame]
    exact hstack j
  | true =>
    cases i with
    | ret =>
      obtain ⟨a, u, hpop, rfl⟩ := exec_ret_next h
      obtain ⟨-, -, rfl⟩ := (popFrame_eq_ok ..).mp hpop
      exact hstack j
    | call nnn =>
      obtain ⟨u, hpush, rfl⟩ := exec_call_next h
      obtain ⟨hsp, rfl⟩ := (pushFrame_eq_ok ..).mp hpush
      show (s.stack.set s.sp.val (s.pc + 2) hsp)[j.val].toNat ≤ 0x1000
      rw [Vector.getElem_set]
      split
      · exact (pc_add_le hpc).1
      · exact hstack j
    | _ => cases hw

/-- The highest target is that of JP V0, FFF + FF. -/
theorem exec_pc_le (h : exec i s = .next t) (hpc : s.pc.toNat + 1 < 4096)
    (hstack : ∀ j : Fin 16, s.stack[j].toNat ≤ 0x1000) : t.pc.toNat ≤ 0x10FE := by
  obtain ⟨htwo, hfour⟩ := pc_add_le hpc
  have hrule : PcRule i s t := exec_pcRule h
  cases i with
  | sys => cases h
  | jp nnn =>
    cases h
    have := nnn.isLt
    rw [State.setPc_pc, addrOperand_toNat]
    omega
  | jpV0 nnn =>
    cases h
    have := nnn.isLt
    have := (s.getV 0).isLt
    rw [State.setPc_pc, BitVec.toNat_add, addrOperand_toNat, offsetOperand_toNat]
    omega
  | call nnn =>
    obtain ⟨u, -, rfl⟩ := exec_call_next h
    have := nnn.isLt
    rw [State.setPc_pc, addrOperand_toNat]
    omega
  | ret =>
    obtain ⟨a, u, hpop, rfl⟩ := exec_ret_next h
    obtain ⟨hsp, rfl, -⟩ := (popFrame_eq_ok ..).mp hpop
    have := hstack ⟨s.sp.val - 1, by omega⟩
    exact this.trans (by decide)
  | seImm | sneImm | seReg | sneReg | skp | sknp =>
    obtain hp | hp : t.pc = s.pc + 2 ∨ t.pc = s.pc + 4 := hrule
    all_goals
      rw [hp]
      omega
  | _ =>
    have hp : t.pc = s.pc + 2 := hrule
    rw [hp]
    omega

theorem exec_inv (h : exec i s = .next t) (hpc : s.pc.toNat + 1 < 4096) (hinv : s.Inv) : t.Inv where
  mem_wf := exec_mem_wf h hinv.mem_wf
  pc_le := exec_pc_le h hpc hinv.stack_le
  stack_le := exec_stack_le h hpc hinv.stack_le

end

/-- Settles O23: an instruction runs only where its word could be fetched, so at FFE at most. -/
theorem stepKeepsTheInvariant : Obligations.StepKeepsTheInvariant := by
  intro s t hinv h
  obtain ⟨x, -, rfl⟩ | ⟨-, hpc, op, i, -, -, hexec⟩ := step_next_cases s t h
  · exact hinv
  · exact exec_inv hexec hpc hinv

/-! ### The invariant under the host's operations (R163) -/

/-- The invariant speaks of memory, pc and the stack only. -/
theorem State.Inv.congr {s t : State} (hinv : s.Inv) (hmem : t.mem = s.mem) (hpc : t.pc = s.pc)
    (hstack : t.stack = s.stack) : t.Inv where
  mem_wf := hmem ▸ hinv.mem_wf
  pc_le := hpc ▸ hinv.pc_le
  stack_le := hstack ▸ hinv.stack_le

/-- A key event writes its key, and at most ends a wait by a register write besides (R147, R164). -/
theorem setKeyState_cases (code : Key) (p : Bool) (s : State) :
    setKeyState code p s = s.setKey code p ∨
      ∃ x, setKeyState code p s = ((s.setKey code p).setV x (BitVec.ofNat 8 code.val)).setExec .running := by
  rw [setKeyState, resolveWait]
  split
  · exact .inl rfl
  · next x _ =>
    split
    · exact .inr ⟨x, rfl⟩
    · exact .inl rfl

/-- Settles O24: a step by O23, a load because it ends inside memory, and no other operation touches what the invariant
speaks of. -/
theorem hostOperationsKeepTheInvariant : Obligations.HostOperationsKeepTheInvariant := by
  intro s op hinv
  cases op with
  | step =>
    cases h : step s with
    | next t =>
      rw [perform, h]
      exact stepKeepsTheInvariant s t hinv h
    | fault f => rwa [perform_step_of_fault h]
    | refused r => rwa [perform, h]
  | tickTimers | framebufferSnapshot | consumeDirty | soundOutput => exact hinv.congr rfl rfl rfl
  | setKeyState code pressed =>
    rw [perform]
    obtain h | ⟨x, h⟩ := setKeyState_cases code pressed s
    all_goals
      rw [h]
      exact hinv.congr rfl rfl rfl
  | loadProgram bytes =>
    by_cases hlen : bytes.length ≤ 3584
    · rw [perform_loadProgram_ok s hlen]
      exact ⟨Memory.wf_writeRun s.mem 0x200 bytes hinv.mem_wf (by omega), hinv.pc_le, hinv.stack_le⟩
    · rwa [perform_loadProgram_tooLarge s (Nat.lt_of_not_le hlen)]

/-! ### The key wait holds while no key is pressed (R81, R171, R187) -/

/-- What the wait keeps: exec, pc, the registers, I and the call stack are the same in both states. -/
structure SameInWait (s t : State) : Prop where
  execState : t.execState = s.execState
  pc : t.pc = s.pc
  v : t.v = s.v
  i : t.i = s.i
  stack : t.stack = s.stack
  sp : t.sp = s.sp

theorem SameInWait.refl (s : State) : SameInWait s s := ⟨rfl, rfl, rfl, rfl, rfl, rfl⟩

theorem SameInWait.trans {s t u : State} (hst : SameInWait s t) (htu : SameInWait t u) : SameInWait s u where
  execState := htu.execState.trans hst.execState
  pc := htu.pc.trans hst.pc
  v := htu.v.trans hst.v
  i := htu.i.trans hst.i
  stack := htu.stack.trans hst.stack
  sp := htu.sp.trans hst.sp

/-- The reply is neither a fault nor a refusal. -/
def Reply.Answers (r : Reply) : Prop := (∀ f, r ≠ .fault f) ∧ ∀ e, r ≠ .refused e

theorem safeRun_nil (s : State) : SafeRun [] s := nofun

theorem safeRun_cons {op : HostOp} {ops : List HostOp} {s : State} :
    SafeRun (op :: ops) s ↔ (perform op s).1.Answers ∧ SafeRun ops (perform op s).2 := List.forall_mem_cons

section
variable {op : HostOp} {ops : List HostOp} {s : State} {x : Reg}

/-- One operation in the wait: a step does nothing, a key event is a release, and no other operation writes what the
wait keeps; only a load can fault. -/
theorem perform_in_wait (hwait : s.execState = .awaitingKey x) (hop : op.presses = false) :
    SameInWait s (perform op s).2 ∧ (op.overloads = false → (perform op s).1.Answers) := by
  cases op with
  | step =>
    rw [perform, step_of_awaitingKey hwait]
    exact ⟨.refl s, fun _ => ⟨nofun, nofun⟩⟩
  | tickTimers | framebufferSnapshot | consumeDirty | soundOutput =>
    exact ⟨⟨rfl, rfl, rfl, rfl, rfl, rfl⟩, fun _ => ⟨nofun, nofun⟩⟩
  | setKeyState code pressed =>
    have hrelease : pressed = false := hop
    rw [perform, setKeyState_noPress s code pressed (.inl hrelease)]
    exact ⟨⟨rfl, rfl, rfl, rfl, rfl, rfl⟩, fun _ => ⟨nofun, nofun⟩⟩
  | loadProgram bytes =>
    by_cases hlen : bytes.length ≤ 3584
    · rw [perform_loadProgram_ok s hlen]
      exact ⟨⟨rfl, rfl, rfl, rfl, rfl, rfl⟩, fun _ => ⟨nofun, nofun⟩⟩
    · rw [perform_loadProgram_tooLarge s (Nat.lt_of_not_le hlen)]
      exact ⟨.refl s, fun hfits => absurd (Nat.lt_of_not_le hlen) (of_decide_eq_false hfits)⟩

theorem performAll_in_wait (hwait : s.execState = .awaitingKey x) (hops : ∀ op ∈ ops, op.presses = false) :
    SameInWait s (performAll ops s).2 ∧ ((∀ op ∈ ops, op.overloads = false) → SafeRun ops s) := by
  induction ops generalizing s with
  | nil => exact ⟨.refl s, fun _ => safeRun_nil s⟩
  | cons op ops ih =>
    obtain ⟨hop, hops⟩ := List.forall_mem_cons.mp hops
    obtain ⟨hsame, hreply⟩ := perform_in_wait hwait hop
    obtain ⟨hrest, hsafe⟩ := ih (hsame.execState.trans hwait) hops
    refine ⟨hsame.trans hrest, fun hfit => ?_⟩
    obtain ⟨hfit, hfits⟩ := List.forall_mem_cons.mp hfit
    exact safeRun_cons.mpr ⟨hreply hfit, hsafe hfits⟩

end

/-- Settles O54, by induction on the operations. -/
theorem waitHoldsUntilAKeyIsPressed : Obligations.WaitHoldsUntilAKeyIsPressed := by
  intro ops s x hwait hops
  obtain ⟨hsame, hsafe⟩ := performAll_in_wait hwait hops
  exact ⟨hsame.execState.trans hwait, hsame.pc, hsame.v, hsame.i, hsame.stack, hsame.sp, hsafe⟩

end Sys2Proof.Machine
end

section
/-! SUPPORT. The statements about control transfer and skips (spec/41_control.md), after the facts they need: where a
jump leads and what its word is, what RET and CALL answer while the stack allows them, and the pc after a skip. -/

namespace Sys2Proof

/-- The family digit of an address word counts 4096s (R60). -/
theorem packAddr_toNat (n3 : BitVec 4) (nnn : Addr) : (packAddr n3 nnn).toNat = n3.toNat * 4096 + nnn.toNat := by
  rw [packAddr, BitVec.toNat_append, ← Nat.shiftLeft_add_eq_or_of_lt nnn.isLt, Nat.shiftLeft_eq]

theorem packAddr_eq_ofNat (n3 : BitVec 4) (nnn : Addr) :
    packAddr n3 nnn = BitVec.ofNat 16 (n3.toNat * 4096 + nnn.toNat) := by
  rw [← packAddr_toNat, BitVec.ofNat_toNat, BitVec.setWidth_eq]

end Sys2Proof

namespace Sys2Proof.Machine

section
variable {s : State}

/-! ### Jumps (R93, R99) -/

theorem sameButPc_setPc {a : Word} : SameButPc s (s.setPc a) := rfl

theorem State.setPc_self : s.setPc s.pc = s := rfl

/-- A 12-bit address and a byte add up without a carry out of 16 bits (R99). -/
theorem addrOperand_add_offsetOperand_toNat (nnn : Addr) (x : Reg) :
    (addrOperand nnn + offsetOperand s x).toNat = nnn.toNat + (s.getV x).toNat := by
  have := nnn.isLt
  have := (s.getV x).isLt
  rw [BitVec.toNat_add, addrOperand_toNat, offsetOperand_toNat]
  omega

/-! ### RET and CALL, by the number of the entry they use (R92, R94) -/

/-- RET with entry `j` the latest. -/
theorem exec_ret_of_sp {j : Fin 16} (h : s.sp.val = j.val + 1) :
    exec .ret s = .next { s with sp := j.castSucc, pc := s.stack[j] } := by
  have hpop : popFrame s = .ok (s.stack[j], { s with sp := j.castSucc }) :=
    (popFrame_eq_ok ..).mpr ⟨by omega, by simp [h], by simp only [h]; rfl⟩
  exact (deliver_bind_eq_next (popFrame s) (fun p => p.2.setPc p.1) _).mpr ⟨_, hpop, rfl⟩

/-- CALL with entry `j` the first free one. -/
theorem exec_call_of_sp {j : Fin 16} (nnn : Addr) (h : s.sp.val = j.val) :
    exec (.call nnn) s =
      .next { s with stack := s.stack.set j (s.pc + 2), sp := j.succ, pc := addrOperand nnn } := by
  have hpush : pushFrame s (s.pc + 2) = .ok { s with stack := s.stack.set j (s.pc + 2), sp := j.succ } :=
    (pushFrame_eq_ok ..).mpr ⟨by omega, by simp only [h]; rfl⟩
  exact (deliver_bind_eq_next _ (·.setPc (addrOperand nnn)) _).mpr ⟨_, hpush, rfl⟩

theorem getElem_stack_set (stack : Vector Word 16) (j k : Fin 16) (a : Word) :
    (stack.set j a)[k] = if k = j then a else stack[k] := by
  simp only [Fin.getElem_fin, Vector.getElem_set, Fin.ext_iff, eq_comm]

/-! ### Skips (R90) -/

theorem State.skipIf_beq_pc (a b : Byte) : (s.skipIf (a == b)).pc = if a = b then s.pc + 4 else s.pc + 2 := by simp

theorem State.skipIf_bne_pc (a b : Byte) : (s.skipIf (a != b)).pc = if a = b then s.pc + 2 else s.pc + 4 := by simp

end

/-- Settles O25. -/
theorem sysAlwaysFaults : Obligations.SysAlwaysFaults := fun nnn _ =>
  ⟨BitVec.ofNat 16 nnn.toNat, exec_eq_fault.mpr rfl, Nat.mod_eq_of_lt (nnn.isLt.trans (by decide))⟩

/-- Settles O26. -/
theorem retPopsTheLatestFrame : Obligations.RetPopsTheLatestFrame := fun _ =>
  ⟨fun hempty => exec_eq_fault.mpr (if_pos hempty), fun _ hsp => ⟨_, exec_ret_of_sp hsp, rfl, rfl, rfl, rfl⟩⟩

/-- Settles O27. -/
theorem jumpSetsPc : Obligations.JumpSetsPc := by
  intro nnn s
  refine ⟨?_, s.setPc (addrOperand nnn), rfl, addrOperand_toNat nnn, sameButPc_setPc, fun hself => ?_⟩
  · have hword : encode (.jp nnn) = BitVec.ofNat 16 (0x1000 + nnn.toNat) := packAddr_eq_ofNat 1#4 nnn
    rw [← hword]
    exact decode_encode rfl
  · have htarget : addrOperand nnn = s.pc := BitVec.eq_of_toNat_eq ((addrOperand_toNat nnn).trans hself.symm)
    rw [htarget, State.setPc_self]

/-- Settles O28. -/
theorem callPushesAndJumps : Obligations.CallPushesAndJumps := fun nnn s =>
  ⟨fun hfull => exec_eq_fault.mpr (if_pos hfull), fun j hsp =>
    ⟨_, exec_call_of_sp nnn hsp, addrOperand_toNat nnn, rfl, fun k => getElem_stack_set s.stack j k _, rfl⟩⟩

/-- Settles O29: the CALL completed, so it wrote a free entry `j`; RET reads entry `j`, and those below it are as
before the CALL. -/
theorem callThenRetReturnsAfterTheCall : Obligations.CallThenRetReturnsAfterTheCall := by
  intro nnn s t u hcall hstack hsp
  obtain ⟨_, hpush, -⟩ := exec_call_next hcall
  obtain ⟨hfree, -⟩ := (pushFrame_eq_ok ..).mp hpush
  obtain ⟨j, hj⟩ : ∃ j : Fin 16, s.sp = j.castSucc := ⟨⟨s.sp.val, hfree⟩, rfl⟩
  have hnext := hcall.symm.trans (exec_call_of_sp nnn (congrArg Fin.val hj))
  obtain rfl := Host.Outcome.next.inj hnext
  have hret : exec .ret u = .next { u with sp := j.castSucc, pc := u.stack[j] } :=
    exec_ret_of_sp (congrArg Fin.val hsp)
  have hread (k : Fin 16) : u.stack[k] = if k = j then s.pc + 2 else s.stack[k] := by
    rw [hstack, getElem_stack_set]
  refine ⟨_, hret, (hread j).trans (if_pos rfl), hj.symm, fun k hk => (hread k).trans (if_neg ?_)⟩
  rintro rfl
  exact absurd (congrArg Fin.val hj) hk.ne'

/-- Settles O30. -/
theorem jumpV0AddsV0 : Obligations.JumpV0AddsV0 := fun nnn _ =>
  ⟨_, rfl, addrOperand_add_offsetOperand_toNat nnn 0, sameButPc_setPc⟩

/-- Settles O31. -/
theorem registerSkipsSkipOneWord : Obligations.RegisterSkipsSkipOneWord := fun x y nn s =>
  ⟨⟨_, rfl, State.skipIf_beq_pc (s.getV x) nn, sameButPc_setPc⟩,
    ⟨_, rfl, State.skipIf_bne_pc (s.getV x) nn, sameButPc_setPc⟩,
    ⟨_, rfl, State.skipIf_beq_pc (s.getV x) (s.getV y), sameButPc_setPc⟩,
    ⟨_, rfl, State.skipIf_bne_pc (s.getV x) (s.getV y), sameButPc_setPc⟩⟩

end Sys2Proof.Machine
end

section
/-! SUPPORT. The statements about register loads, arithmetic, logic, shifts and RND (spec/42_alu.md), after the facts
they need: the words of their formats as numbers, what a register write and a flag write leave, and each result and
flag on naturals. -/

namespace Sys2Proof

/-! ### The words `_xnn` and `_xy_` as numbers (R60) -/

theorem toNat_append_eq_add {m n : Nat} (a : BitVec m) (b : BitVec n) :
    (a ++ b).toNat = a.toNat * 2 ^ n + b.toNat := by
  rw [BitVec.toNat_append, ← Nat.shiftLeft_add_eq_or_of_lt b.isLt, Nat.shiftLeft_eq]

theorem nibbleField_toNat (k : Fin 16) : (nibbleField k).toNat = k.val := rfl

theorem packByte_toNat (n3 : BitVec 4) (x : Reg) (nn : Byte) :
    (packByte n3 x nn).toNat = n3.toNat * 4096 + x.val * 256 + nn.toNat := by
  rw [packByte, toNat_append_eq_add, toNat_append_eq_add, nibbleField_toNat]
  omega

theorem packByte_eq_ofNat (n3 : BitVec 4) (x : Reg) (nn : Byte) :
    packByte n3 x nn = BitVec.ofNat 16 (n3.toNat * 4096 + x.val * 256 + nn.toNat) := by
  rw [← packByte_toNat, BitVec.ofNat_toNat, BitVec.setWidth_eq]

/-- The low digit stands with the family digit: for one row of the map both are fixed. -/
theorem packRegs_toNat (n3 : BitVec 4) (x y : Reg) (n : BitVec 4) :
    (packRegs n3 x y n).toNat = n3.toNat * 4096 + n.toNat + x.val * 256 + y.val * 16 := by
  rw [packRegs, toNat_append_eq_add, toNat_append_eq_add, toNat_append_eq_add, nibbleField_toNat, nibbleField_toNat]
  omega

theorem packRegs_eq_ofNat (n3 : BitVec 4) (x y : Reg) (n : BitVec 4) :
    packRegs n3 x y n = BitVec.ofNat 16 (n3.toNat * 4096 + n.toNat + x.val * 256 + y.val * 16) := by
  rw [← packRegs_toNat, BitVec.ofNat_toNat, BitVec.setWidth_eq]

end Sys2Proof

namespace Sys2Proof.Machine

/-! ### What a register write and a flag write leave (R100) -/

section
variable {s : State} {x : Reg} {b : Byte}

theorem writesReg_setV : WritesReg s (s.setV x b).advance x b := ⟨fun k => s.getV_setV x k b, rfl, rfl⟩

theorem writesRegAndFlag_setResultAndFlag {result : Byte} {c : Bool} {flag : Prop} [Decidable flag]
    (hresult : b = result) (hflag : c = true ↔ flag) :
    WritesRegAndFlag s (s.setResultAndFlag x b c).advance x result flag := by
  subst hresult
  refine ⟨fun k => ?_, rfl, rfl⟩
  simp only [State.getV_advance, State.getV_setResultAndFlag, hflag]

end

/-! ### The results on naturals -/

section
variable (a b : Byte)

theorem add_eq_ofNat : a + b = BitVec.ofNat 8 ((a.toNat + b.toNat) % 256) :=
  BitVec.eq_of_toNat_eq (by simp)

theorem sub_eq_ofNat : a - b = BitVec.ofNat 8 ((a.toNat + 256 - b.toNat) % 256) := by
  have := b.isLt
  apply BitVec.eq_of_toNat_eq
  rw [BitVec.toNat_sub, BitVec.toNat_ofNat]
  omega

theorem shiftRight_one_eq_ofNat : a >>> 1 = BitVec.ofNat 8 (a.toNat / 2) := by
  have := a.isLt
  apply BitVec.eq_of_toNat_eq
  rw [BitVec.toNat_ushiftRight, BitVec.toNat_ofNat, Nat.shiftRight_eq_div_pow]
  omega

theorem shiftLeft_one_eq_ofNat : a <<< 1 = BitVec.ofNat 8 (a.toNat * 2 % 256) := by
  apply BitVec.eq_of_toNat_eq
  rw [BitVec.toNat_shiftLeft, BitVec.toNat_ofNat, Nat.shiftLeft_eq]
  omega

/-! ### The flags on naturals -/

theorem carry8_iff : carry8 a b = true ↔ a.toNat + b.toNat ≥ 256 := decide_eq_true_iff

theorem noBorrow_iff : noBorrow a b = true ↔ a.toNat ≥ b.toNat := decide_eq_true_iff

theorem lowBit_iff : lowBit a = true ↔ a.toNat % 2 = 1 := by
  rw [lowBit, BitVec.getLsbD, Nat.testBit_zero, decide_eq_true_iff]

/-- Bit 7 is the top bit, so the quotient by 128 is at most 1. -/
theorem highBit_iff : highBit a = true ↔ a.toNat / 128 = 1 := by
  have := a.isLt
  rw [highBit, BitVec.getLsbD, Nat.testBit_eq_decide_div_mod_eq, decide_eq_true_iff]
  omega

end

/-- Settles O32. -/
theorem loadImmediateWritesTheByte : Obligations.LoadImmediateWritesTheByte := fun x nn _ =>
  ⟨decode_eq_ok.mpr ⟨rfl, packByte_eq_ofNat 6#4 x nn⟩, _, rfl, writesReg_setV⟩

/-- Settles O33. -/
theorem addImmediateWraps : Obligations.AddImmediateWraps := by
  intro x nn s
  refine ⟨decode_eq_ok.mpr ⟨rfl, packByte_eq_ofNat 7#4 x nn⟩, _, rfl, ?_⟩
  rw [← add_eq_ofNat]
  exact writesReg_setV

/-- Settles O34: the four words differ in the low digit, the four results in the operation on each bit. -/
theorem copyAndLogicWriteNoFlag : Obligations.CopyAndLogicWriteNoFlag := fun x y _ =>
  ⟨⟨decode_eq_ok.mpr ⟨rfl, packRegs_eq_ofNat 8#4 x y 0#4⟩, _, rfl, writesReg_setV⟩,
    ⟨decode_eq_ok.mpr ⟨rfl, packRegs_eq_ofNat 8#4 x y 1#4⟩, _, _, rfl, writesReg_setV, fun _ => BitVec.getLsbD_or⟩,
    ⟨decode_eq_ok.mpr ⟨rfl, packRegs_eq_ofNat 8#4 x y 2#4⟩, _, _, rfl, writesReg_setV, fun _ => BitVec.getLsbD_and⟩,
    ⟨decode_eq_ok.mpr ⟨rfl, packRegs_eq_ofNat 8#4 x y 3#4⟩, _, _, rfl, writesReg_setV, fun _ => BitVec.getLsbD_xor⟩⟩

/-- Settles O35. -/
theorem addSetsCarry : Obligations.AddSetsCarry := fun _ _ _ =>
  ⟨_, rfl, writesRegAndFlag_setResultAndFlag (add_eq_ofNat _ _) (carry8_iff _ _)⟩

/-- Settles O36: SUBN is SUB with the operands exchanged. -/
theorem subtractionsSetNoBorrow : Obligations.SubtractionsSetNoBorrow := fun _ _ _ =>
  ⟨⟨_, rfl, writesRegAndFlag_setResultAndFlag (sub_eq_ofNat _ _) (noBorrow_iff _ _)⟩,
    ⟨_, rfl, writesRegAndFlag_setResultAndFlag (sub_eq_ofNat _ _) (noBorrow_iff _ _)⟩⟩

/-- Settles O37: neither body names y. -/
theorem shiftsSetTheBitShiftedOut : Obligations.ShiftsSetTheBitShiftedOut := fun _ _ _ =>
  ⟨⟨_, rfl, writesRegAndFlag_setResultAndFlag (shiftRight_one_eq_ofNat _) (lowBit_iff _)⟩,
    ⟨_, rfl, writesRegAndFlag_setResultAndFlag (shiftLeft_one_eq_ofNat _) (highBit_iff _)⟩,
    fun _ => ⟨rfl, rfl⟩⟩

/-- Settles O38: the draw touches no register, so the write of V[x] is the write over the state before it. -/
theorem randomMasksTheNextByte : Obligations.RandomMasksTheNextByte := fun x nn s =>
  ⟨_, nn &&& Config.randomSource s.draws, rfl, fun k => (randomByte s).2.getV_setV x k _,
    fun _ => BitVec.getLsbD_and, rfl, rfl, rfl⟩

end Sys2Proof.Machine
end

section
/-! SUPPORT. The statements about the index register and the memory blocks (spec/43_index_memory.md), after the facts
they need: what the block instructions answer where their range lies inside memory and where it does not, the bytes they
leave or the registers they load, and the sum and carry of ADD I on naturals. -/

namespace Sys2Proof.Machine

section
variable {s : State} {x : Reg}

/-! ### Block instructions, by their last address (R49, R120) -/

/-- A range of `n + 1` bytes at I runs past memory when its last address does. -/
theorem indexRunsPast_succ {n : Nat} (h : s.i.toNat + n > 0xFFF) : IndexRunsPast s (n + 1) := ⟨Nat.succ_pos n, h⟩

/-- LD B and LD [I],Vx differ in their bytes only: each writes them at I, checked, and advances pc. -/
theorem deliver_writeRange_of_inRange {bytes : List Byte} (h : s.i.toNat + bytes.length ≤ 4096) :
    (deliver do
      let u ← writeRange s (indexAddress s) bytes
      .ok u.advance) = .next (s.setMem (Memory.writeRun s.mem s.i.toNat bytes)).advance :=
  (deliver_bind_eq_next _ State.advance _).mpr ⟨_, (writeRange_eq_ok ..).mpr ⟨.inr h, rfl⟩, rfl⟩

theorem exec_ldBcd_of_inRange (h : s.i.toNat + 2 ≤ 0xFFF) :
    exec (.ldBcd x) s =
      .next (s.setMem (Memory.writeRun s.mem s.i.toNat (decimalDigits (s.getV x)))).advance :=
  deliver_writeRange_of_inRange (Nat.succ_le_succ h)

theorem exec_store_of_inRange (h : s.i.toNat + x.val ≤ 0xFFF) :
    exec (.store x) s = .next (s.setMem (Memory.writeRun s.mem s.i.toNat (registersTo s x))).advance :=
  deliver_writeRange_of_inRange (registersTo_length s x ▸ Nat.succ_le_succ h)

/-- The `len` bytes of memory from I on. -/
def bytesAtIndex (s : State) (len : Nat) : List Byte := (List.range len).map fun k => Memory.read s.mem (s.i.toNat + k)

theorem exec_load_of_inRange (h : s.i.toNat + x.val ≤ 0xFFF) :
    exec (.load x) s = .next (loadRegisters s 0 (bytesAtIndex s (x.val + 1))).advance := by
  have hread : readRange s (indexAddress s) (x.val + 1) = .ok (bytesAtIndex s (x.val + 1)) :=
    (readRange_eq_ok ..).mpr ⟨.inr (Nat.succ_le_succ h), rfl⟩
  exact (deliver_bind_eq_next _ (fun bytes => (loadRegisters s 0 bytes).advance) _).mpr ⟨_, hread, rfl⟩

theorem sameButMemory_setMem {m : Memory} : SameButMemory s (s.setMem m).advance := rfl

theorem sameButRegs_loadRegisters {k : Nat} {bytes : List Byte} :
    SameButRegs s (loadRegisters s k bytes).advance := by
  rw [loadRegisters_eq]
  rfl

/-! ### The bytes left and the registers loaded (R124, R126) -/

theorem decimalDigits_toNat (b : Byte) :
    (decimalDigits b).map BitVec.toNat = [b.toNat / 100, b.toNat / 10 % 10, b.toNat % 10] := by
  have := b.isLt
  simp only [decimalDigits, List.map_cons, List.map_nil, BitVec.toNat_ofNat, List.cons.injEq, and_true]
  omega

/-- Digit `k` of a byte, the hundreds first, lies at `a + k` after the digits were written from `a` on (R124). -/
theorem read_writeRun_decimalDigits (m : Memory) (a : Nat) (b : Byte) {k : Nat} (h : k < 3) :
    (Memory.read (Memory.writeRun m a (decimalDigits b)) (a + k)).toNat =
      [b.toNat / 100, b.toNat / 10 % 10, b.toNat % 10].getD k 0 := by
  rw [Memory.read_writeRun_add m a _ h, ← decimalDigits_toNat]
  exact (List.getD_map (decimalDigits b) 0 BitVec.toNat).symm

theorem getV_loadRegisters_bytesAtIndex (k : Reg) :
    (loadRegisters s 0 (bytesAtIndex s (x.val + 1))).getV k =
      if k ≤ x then Memory.read s.mem (s.i.toNat + k.val) else s.getV k := by
  rw [getV_loadRegisters, bytesAtIndex, List.length_map, List.length_range]
  by_cases h : k.val ≤ x.val
  · have hlt : k.val < x.val + 1 := by omega
    simp [Fin.le_def, h, hlt]
  · rw [if_neg (by omega), if_neg (mt Fin.le_def.mp h)]

/-! ### The sum and the carry of ADD I on naturals (R122) -/

theorem index_add_offsetOperand_toNat :
    (s.i + offsetOperand s x).toNat = (s.i.toNat + (s.getV x).toNat) % 65536 := by
  rw [BitVec.toNat_add, offsetOperand_toNat]

theorem carry16_iff (i : Word) (a : Byte) : carry16 i a = true ↔ i.toNat + a.toNat ≥ 65536 := decide_eq_true_iff

end

/-- Settles O42: the three digits are one run of bytes at I. -/
theorem bcdStoresTheThreeDigits : Obligations.BcdStoresTheThreeDigits := by
  refine fun x s => ⟨fun hpast => exec_eq_fault.mpr (if_pos (indexRunsPast_succ hpast)), fun hin => ?_⟩
  have hdigit {k : Nat} (hk : k < 3) := read_writeRun_decimalDigits s.mem s.i.toNat (s.getV x) hk
  exact ⟨_, exec_ldBcd_of_inRange hin, hdigit (k := 0) (by decide), hdigit (k := 1) (by decide),
    hdigit (k := 2) (by decide), fun a ha => Memory.read_writeRun_of_not_inRun s.mem ha, rfl, sameButMemory_setMem⟩

/-- Settles O43: V0..Vx are one run of bytes at I. -/
theorem storeWritesRegistersInOrder : Obligations.StoreWritesRegistersInOrder := by
  refine fun x s => ⟨fun hpast => exec_eq_fault.mpr (if_pos (indexRunsPast_succ hpast)), fun hin => ?_⟩
  have hexec := exec_store_of_inRange hin
  refine ⟨_, hexec, fun k hk => read_exec_store hexec hk, fun a ha => ?_, rfl, sameButMemory_setMem⟩
  rw [← registersTo_length s x] at ha
  exact Memory.read_writeRun_of_not_inRun s.mem ha

/-- Settles O44: VF is loaded like every other register. -/
theorem loadReadsRegistersInOrder : Obligations.LoadReadsRegistersInOrder := fun _ _ =>
  ⟨fun hpast => exec_eq_fault.mpr (if_pos (indexRunsPast_succ hpast)), fun hin =>
    ⟨_, exec_load_of_inRange hin, getV_loadRegisters_bytesAtIndex,
      congrArg (· + 2) (loadRegisters_pc ..), sameButRegs_loadRegisters⟩⟩

/-- Settles O45: the completed store had its range inside memory, so the load completes, and reads each byte that the
store left. -/
theorem storeThenLoadRestoresRegisters : Obligations.StoreThenLoadRestoresRegisters := by
  intro x s t u hstore hmem hi
  have hin : u.i.toNat + x.val ≤ 0xFFF := by
    rw [hi]
    exact Nat.le_of_lt_succ (exec_store_inRange hstore)
  refine ⟨_, exec_load_of_inRange hin, fun k hk => ?_⟩
  rw [State.getV_advance, getV_loadRegisters_bytesAtIndex, if_pos hk, hmem, hi, read_exec_store hstore hk]

/-- Settles O39. -/
theorem loadIndexWritesTheAddress : Obligations.LoadIndexWritesTheAddress := fun nnn _ =>
  ⟨decode_eq_ok.mpr ⟨rfl, packAddr_eq_ofNat 0xA#4 nnn⟩, _, rfl, addrOperand_toNat nnn, rfl, rfl⟩

/-- Settles O40: the flag is the only register written, and V[x] was read before it. -/
theorem addIndexSetsCarry : Obligations.AddIndexSetsCarry := by
  refine fun x s => ⟨_, rfl, index_add_offsetOperand_toNat, fun k => ?_, rfl, rfl⟩
  simp only [State.getV_advance, State.getV_setFlag, State.getV_setI, carry16_iff]

/-- Settles O41. -/
theorem loadFontPointsAtTheGlyph : Obligations.LoadFontPointsAtTheGlyph := fun x s =>
  ⟨_, rfl, glyphAddress_toNat (s.getV x), rfl, rfl⟩

end Sys2Proof.Machine
end

section
/-! SUPPORT. The statements about the display (spec/44_display.md), after the facts they need: drawing a sprite flips a
list of distinct pixels one after the other, that list holds exactly the covered pixels, and so what a completed DRW
leaves of the screen and of VF. -/

namespace Sys2Proof.Machine

/-! ### Flipping a list of pixels -/

/-- The pixels of the list are flipped in order; one that was 1 when its turn came is a collision. -/
def flipAll (ps : List (Fin 64 × Fin 32)) (drawn : Framebuffer × Bool) : Framebuffer × Bool :=
  ps.foldl (fun d p => drawBit true p.1 p.2 d) drawn

theorem flipAll_cons (p : Fin 64 × Fin 32) (ps : List (Fin 64 × Fin 32)) (drawn : Framebuffer × Bool) :
    flipAll (p :: ps) drawn = flipAll ps (flipPixel drawn.1 p.1 p.2, drawn.2 || pixel drawn.1 p.1 p.2) := by
  rw [flipAll, List.foldl_cons, drawBit_eq]
  simp [flipAll]

/-- A flip leaves the pixels that are not its own. -/
theorem pixel_flipPixel_of_ne (fb : Framebuffer) {p q : Fin 64 × Fin 32} (h : q ≠ p) :
    pixel (flipPixel fb p.1 p.2) q.1 q.2 = pixel fb q.1 q.2 := by
  have hne : ¬(q.1 = p.1 ∧ q.2 = p.2) := fun e => h (Prod.ext e.1 e.2)
  rw [pixel_flipPixel, decide_eq_false hne, Bool.xor_false]

section
variable {ps : List (Fin 64 × Fin 32)}

/-- Distinct pixels are each inverted once, and no other is. -/
theorem pixel_flipAll (h : ps.Nodup) (drawn : Framebuffer × Bool) (c : Fin 64) (r : Fin 32) :
    pixel (flipAll ps drawn).1 c r = (pixel drawn.1 c r ^^ decide ((c, r) ∈ ps)) := by
  induction ps generalizing drawn with
  | nil => simp [flipAll]
  | cons p ps ih =>
    obtain ⟨hp, hps⟩ := List.nodup_cons.mp h
    rw [flipAll_cons, ih hps]
    by_cases e : (c, r) = p
    · subst e; simp [hp]
    · rw [pixel_flipPixel_of_ne drawn.1 e]
      simp [e]

/-- Distinct pixels collide exactly when one of them was 1 before any was flipped. -/
theorem flipAll_collides (h : ps.Nodup) (drawn : Framebuffer × Bool) :
    (flipAll ps drawn).2 = true ↔ drawn.2 = true ∨ ∃ p ∈ ps, pixel drawn.1 p.1 p.2 = true := by
  induction ps generalizing drawn with
  | nil => simp [flipAll]
  | cons p ps ih =>
    obtain ⟨hp, hps⟩ := List.nodup_cons.mp h
    have hrest : (∃ q ∈ ps, pixel (flipPixel drawn.1 p.1 p.2) q.1 q.2 = true) ↔
        ∃ q ∈ ps, pixel drawn.1 q.1 q.2 = true :=
      exists_congr fun q => and_congr_right fun hq => by
        rw [pixel_flipPixel_of_ne drawn.1 (ne_of_mem_of_not_mem hq hp)]
    rw [flipAll_cons, ih hps, hrest, List.exists_mem_cons_iff, Bool.or_eq_true, or_assoc]

end

/-! ### The pixels of a sprite (R132) -/

/-- The rows and columns of the 1 bits of the `n`-row sprite at `base`, in the order in which they are drawn. -/
def spriteBits (m : Memory) (base n : Nat) : List (Nat × Nat) :=
  (List.range n ×ˢ List.range 8).filter fun p => spriteBitAt m base p.1 p.2

/-- The pixel on which row and column `p` of a sprite at (cx, cy) lie. -/
def spritePlace (cx cy : Byte) (p : Nat × Nat) : Fin 64 × Fin 32 := (spriteColumn cx p.2, spriteRow cy p.1)

/-- The pixels that DRW flips in a state, in order. -/
def coveredPixels (x y : Reg) (n : Count) (s : State) : List (Fin 64 × Fin 32) :=
  (spriteBits s.mem s.i.toNat n.val).map (spritePlace (s.getV x) (s.getV y))

theorem mem_spriteBits {m : Memory} {base n row col : Nat} :
    (row, col) ∈ spriteBits m base n ↔ row < n ∧ col < 8 ∧ spriteBitAt m base row col = true := by
  simp [spriteBits, and_assoc]

/-- A screen of 64 columns and 32 rows does not bring two bits of a sprite of 8 columns and n < 32 rows together. -/
theorem spritePlace_injOn {m : Memory} {base n : Nat} (hn : n < 32) (cx cy : Byte) :
    ∀ p ∈ spriteBits m base n, ∀ q ∈ spriteBits m base n, spritePlace cx cy p = spritePlace cx cy q → p = q := by
  rintro ⟨row, col⟩ hp ⟨row', col'⟩ hq h
  obtain ⟨hrow, hcol, -⟩ := mem_spriteBits.mp hp
  obtain ⟨hrow', hcol', -⟩ := mem_spriteBits.mp hq
  obtain ⟨hc, hr⟩ := Prod.mk.inj h
  have hc : (cx.toNat + col) % 64 = (cx.toNat + col') % 64 := Fin.mk.inj hc
  have hr : (cy.toNat + row) % 32 = (cy.toNat + row') % 32 := Fin.mk.inj hr
  exact Prod.ext (by omega) (by omega)

section
variable {x y : Reg} {n : Count} {s t u : State}

theorem coveredPixels_nodup : (coveredPixels x y n s).Nodup :=
  have hn : n.val < 32 := n.isLt.trans (by decide)
  ((List.nodup_range.product List.nodup_range).filter _).map_on (spritePlace_injOn hn _ _)

theorem mem_coveredPixels {c : Fin 64} {r : Fin 32} :
    (c, r) ∈ coveredPixels x y n s ↔
      Covers s.mem s.i.toNat n.val (s.getV x).toNat (s.getV y).toNat c.val r.val := by
  simp only [coveredPixels, List.mem_map, Prod.exists, mem_spriteBits, spritePlace, Prod.mk.injEq, Covers, and_assoc]
  exact exists₂_congr fun row col => by simp only [Fin.ext_iff]; rfl

/-- A sprite without a 1 bit is the only one that covers no pixel. -/
theorem exists_mem_coveredPixels :
    (∃ p, p ∈ coveredPixels x y n s) ↔
      ∃ row col, row < n.val ∧ col < 8 ∧ spriteBitAt s.mem s.i.toNat row col = true := by
  constructor
  · rintro ⟨_, hp⟩
    obtain ⟨⟨row, col⟩, hbit, -⟩ := List.mem_map.mp hp
    exact ⟨row, col, mem_spriteBits.mp hbit⟩
  · rintro ⟨row, col, hbit⟩
    exact ⟨_, List.mem_map_of_mem (mem_spriteBits.mpr hbit)⟩

theorem coveredPixels_congr (hmem : u.mem = s.mem) (hi : u.i = s.i) (hx : u.getV x = s.getV x)
    (hy : u.getV y = s.getV y) : coveredPixels x y n u = coveredPixels x y n s := by
  rw [coveredPixels, coveredPixels, hmem, hi, hx, hy]

/-! ### The drawing loops flip these pixels -/

theorem drawRows_map_range' (cx cy : Byte) (f : Nat → Byte) (row len : Nat) (drawn : Framebuffer × Bool) :
    drawRows cx cy row ((List.range' row len).map f) drawn =
      (List.range' row len).foldl (fun d k => drawRow cx (spriteRow cy k) (f k) d) drawn := by
  induction len generalizing row drawn with
  | zero => rfl
  | succ len ih => exact ih (row + 1) _

theorem drawRows_bytesAtIndex (drawn : Framebuffer × Bool) :
    drawRows (s.getV x) (s.getV y) 0 (bytesAtIndex s n.val) drawn = flipAll (coveredPixels x y n s) drawn := by
  rw [bytesAtIndex, List.range_eq_range', drawRows_map_range', ← List.range_eq_range', flipAll, coveredPixels,
    List.foldl_map, spriteBits, List.foldl_filter]
  exact (List.foldl_flatMap.trans (by simp only [List.foldl_map]; rfl)).symm

/-! ### What a completed DRW did -/

/-- The state that a DRW inside memory leaves. -/
def afterDrw (x y : Reg) (n : Count) (s : State) : State :=
  let drawn := flipAll (coveredPixels x y n s) (s.fb, false)
  ((s.paint drawn.1).setFlag drawn.2).advance

theorem exec_drw_eq_next :
    exec (.drw x y n) s = .next t ↔ (n.val = 0 ∨ s.i.toNat + n.val ≤ 4096) ∧ t = afterDrw x y n s := by
  rw [afterDrw, ← drawRows_bytesAtIndex]
  constructor
  · intro h
    obtain ⟨sprite, drawn, hread, rfl, rfl⟩ := exec_drw_next h
    obtain ⟨hin, rfl⟩ := (readRange_eq_ok ..).mp hread
    exact ⟨hin, rfl⟩
  · rintro ⟨hin, rfl⟩
    exact (deliver_bind_eq_next ..).mpr ⟨bytesAtIndex s n.val, (readRange_eq_ok ..).mpr ⟨hin, rfl⟩, rfl⟩

theorem pixel_afterDrw (c : Fin 64) (r : Fin 32) :
    pixel (afterDrw x y n s).fb c r = (pixel s.fb c r ^^ decide ((c, r) ∈ coveredPixels x y n s)) :=
  pixel_flipAll coveredPixels_nodup (s.fb, false) c r

theorem afterDrw_collides :
    (afterDrw x y n s).getV vF = 1 ↔
      ∃ (c : Fin 64) (r : Fin 32), pixel s.fb c r = true ∧ (c, r) ∈ coveredPixels x y n s := by
  have hflag : (afterDrw x y n s).getV vF = 1 ↔ (flipAll (coveredPixels x y n s) (s.fb, false)).2 = true := by
    simp [afterDrw]
  rw [hflag, flipAll_collides coveredPixels_nodup]
  simp [and_comm]

end

/-- Settles O47: the painted screen is the clear one. -/
theorem clearScreenClearsEveryPixel : Obligations.ClearScreenClearsEveryPixel :=
  ⟨rfl, fun _ => ⟨_, rfl, pixel_clearScreen, rfl, rfl, rfl⟩⟩

/-- Settles O48: a DRW inside memory inverts the pixels of one list, which are the covered ones. -/
theorem drawFlipsTheCoveredPixels : Obligations.DrawFlipsTheCoveredPixels := by
  refine fun x y n s => ⟨fun hn hpast => exec_eq_fault.mpr (if_pos ⟨hn, hpast⟩), fun hin => ?_⟩
  have hexec : exec (.drw x y n) s = .next (afterDrw x y n s) := exec_drw_eq_next.mpr ⟨by omega, rfl⟩
  simp only [← mem_coveredPixels]
  refine ⟨_, hexec, fun c r => ⟨fun h => ?_, fun h => ?_⟩, flagWritersLeaveZeroOrOne _ _ _ rfl hexec,
    afterDrw_collides, fun k hk => exec_getV_of_not_writesReg hexec (beq_false_of_ne hk), rfl, rfl, rfl⟩
  · rw [pixel_afterDrw, decide_eq_true h, Bool.xor_true]
  · rw [pixel_afterDrw, decide_eq_false h, Bool.xor_false]

/-- Settles O49: both draws flip the same list of pixels, and the second finds each of them inverted. -/
theorem drawingTwiceRestoresTheScreen : Obligations.DrawingTwiceRestoresTheScreen := by
  intro x y n s t u h hfb hmem hi hx hy
  obtain ⟨hin, rfl⟩ := exec_drw_eq_next.mp h
  have hcov : coveredPixels x y n u = coveredPixels x y n s := coveredPixels_congr hmem hi hx hy
  have hcollides : (afterDrw x y n u).getV vF = 1 ↔
      ∃ (c : Fin 64) (r : Fin 32), pixel s.fb c r = false ∧ (c, r) ∈ coveredPixels x y n s := by
    rw [afterDrw_collides, hcov, hfb]
    refine exists₂_congr fun c r => and_congr_left fun hm => ?_
    rw [pixel_afterDrw, decide_eq_true hm, Bool.xor_true, Bool.not_eq_true']
  simp only [← mem_coveredPixels, ← exists_mem_coveredPixels (x := x) (y := y)]
  refine ⟨_, exec_drw_eq_next.mpr ⟨hi ▸ hin, rfl⟩, Framebuffer.ext_pixel _ _ fun c r => ?_, hcollides, fun hclear => ?_⟩
  · rw [pixel_afterDrw, hcov, hfb, pixel_afterDrw, Bool.xor_assoc, Bool.xor_self, Bool.xor_false]
  · have hunlit : ∀ c r, (c, r) ∈ coveredPixels x y n s → pixel s.fb c r = false := fun c r hm =>
      Bool.eq_false_iff.mpr fun hlit => by
        rw [afterDrw_collides.mpr ⟨c, r, hlit, hm⟩] at hclear
        exact absurd hclear (by decide)
    rw [hcollides, Prod.exists]
    exact exists₂_congr fun c r => and_iff_right_of_imp (hunlit c r)

end Sys2Proof.Machine
end

section
/-! SUPPORT. The statements about the timers and the keys (spec/45_timers_input.md), after the facts they need: the key
that a register names and the pc after a skip on it, the value of a key after a key event, and the key event that ends
no wait. -/

namespace Sys2Proof.Machine

section
variable {s : State}

/-! ### The key named by a register (R144, R145) -/

theorem keyPressed_of_toNat_eq {x : Reg} {k : Key} (h : (s.getV x).toNat = k.val) : keyPressed s x = s.keys[k] := by
  rw [keyPressed_of_lt s x (h ▸ k.isLt)]
  simp only [h, Fin.getElem_fin]

theorem State.skipIf_not_pc (c : Bool) : (s.skipIf (!c)).pc = if c then s.pc + 2 else s.pc + 4 := by
  cases c <;> rfl

/-- SKP and SKNP by the level `c` they read, which is that of a key or, for a code of 16 or more, `false`. -/
theorem keySkips_of_keyPressed {x : Reg} {c : Bool} (h : keyPressed s x = c) :
    (∃ t, exec (.skp x) s = .next t ∧ t.pc = (if c = true then s.pc + 4 else s.pc + 2) ∧ SameButPc s t) ∧
      (∃ t, exec (.sknp x) s = .next t ∧ t.pc = (if c = true then s.pc + 2 else s.pc + 4) ∧ SameButPc s t) := by
  subst h
  exact ⟨⟨_, rfl, s.skipIf_pc (keyPressed s x), sameButPc_setPc⟩,
    ⟨_, rfl, State.skipIf_not_pc (keyPressed s x), sameButPc_setPc⟩⟩

/-! ### Key events (R147, R164) -/

theorem State.getElem_keys_setKey (code k : Key) (p : Bool) :
    (s.setKey code p).keys[k] = if k = code then p else s.keys[k] := by
  simp only [State.setKey_keys, Fin.getElem_fin, Vector.getElem_set, Fin.ext_iff, eq_comm]

/-- Ending a wait leaves the keys as the event wrote them. -/
theorem setKeyState_keys (code : Key) (p : Bool) : (setKeyState code p s).keys = (s.setKey code p).keys := by
  obtain h | ⟨x, h⟩ := setKeyState_cases code p s
  · rw [h]
  · rw [h, State.setExec_keys, State.setV_keys]

/-- With no wait to end, or with an event that is no released-to-pressed transition, only the key is written. -/
theorem setKeyState_eq_setKey {code : Key} {p : Bool}
    (h : s.execState = .running ∨ p = false ∨ s.keys[code] = true) : setKeyState code p s = s.setKey code p :=
  h.elim (setKeyState_running s code p) (setKeyState_noPress s code p)

/-- A key code is kept in full by the byte written to V[x]. -/
theorem keyCode_toNat (code : Key) : (BitVec.ofNat 8 code.val).toNat = code.val :=
  Nat.mod_eq_of_lt (code.isLt.trans (by decide))

end

/-- Settles O53: the event either ends the wait by the write of V[x] or is the write of its key alone. -/
theorem keyEventsResolveTheWait : Obligations.KeyEventsResolveTheWait := by
  refine fun s code pressed => ⟨fun k => ?_, fun x hwait hpress hup => ?_, fun h => ?_⟩
  · rw [setKeyState_keys, State.getElem_keys_setKey]
  · subst hpress
    rw [setKeyState_press s code x hwait hup]
    refine ⟨rfl, fun k => ?_, rfl⟩
    rw [State.getV_setExec, State.getV_setV, apply_ite BitVec.toNat, keyCode_toNat, State.getV_setKey]
  · rw [setKeyState_eq_setKey h]
    rfl

/-- Settles O50. -/
theorem timerLoadsCopy : Obligations.TimerLoadsCopy := fun _ _ =>
  ⟨⟨_, rfl, writesReg_setV⟩, ⟨_, rfl, rfl, rfl, rfl⟩, ⟨_, rfl, rfl, rfl, rfl⟩⟩

/-- Settles O51: a code of 16 or more reads as a key that is not pressed. -/
theorem keySkipsReadTheKey : Obligations.KeySkipsReadTheKey := fun x s =>
  ⟨fun _ hk => keySkips_of_keyPressed (keyPressed_of_toNat_eq hk),
    fun hk => keySkips_of_keyPressed (keyPressed_of_ge s x hk)⟩

/-- Settles O52. -/
theorem keyWaitIsEntered : Obligations.KeyWaitIsEntered := fun _ _ => ⟨_, rfl, rfl, rfl, rfl⟩

end Sys2Proof.Machine
end

section
/-! SUPPORT. The statements about the timer tick, the framebuffer snapshot, the dirty flag and the sound level
(spec/60_exceptions.md), after the fact they need: a run goes on from the state its first operation leaves. -/

namespace Sys2Proof.Machine

/-- The first operation hands its state to the rest of the sequence (R51). -/
theorem performAll_cons_state (op : HostOp) (ops : List HostOp) (s : State) :
    (performAll (op :: ops) s).2 = (performAll ops (perform op s).2).2 := rfl

/-- Settles O55: each timer is counted down, and `tickTimers` writes nothing else. -/
theorem tickLowersBothTimers : Obligations.TickLowersBothTimers := fun s =>
  ⟨rfl, countDown_toNat s.dt, countDown_toNat s.st, rfl⟩

/-- Settles O56, by induction on the number of ticks: the first tick lowers each timer by 1, the others by `k`. -/
theorem ticksCountDownToZero : Obligations.TicksCountDownToZero := by
  intro k
  induction k with
  | zero => exact fun s => ⟨rfl, rfl⟩
  | succ k ih =>
    intro s
    obtain ⟨-, hdt, hst, -⟩ := tickLowersBothTimers s
    obtain ⟨hdts, hsts⟩ := ih (perform .tickTimers s).2
    rw [List.replicate_succ, performAll_cons_state, hdts, hsts, hdt, hst]
    omega

/-- Settles O57. -/
theorem displayAndSoundOperationsAnswer : Obligations.DisplayAndSoundOperationsAnswer := fun _ => ⟨rfl, rfl, rfl⟩

end Sys2Proof.Machine
end
